-- ==== Sys2Proof/Word.lean ====
section
/-! DEFINITION. The plain data the command core is made of: bytes, event words, the four channels and
4-tuples indexed by them (spec/00_scope.md R11, spec/20_memory.md R51). -/

namespace Sys2Proof

/-- A byte, bit 7 the most significant, read as an unsigned number 0..255 (R11, R53). -/
abbrev Byte := BitVec 8

/-- The inputs of one clock step packed as 11 bits: rst, period_tick, rx_valid, rx_data[7:0] from the
top down (R76). -/
abbrev EventWord := BitVec 11

/-- The four actuator channels in the source's order (R11): 0 = Base, 1 = Shoulder, 2 = Elbow,
3 = Claw. -/
inductive Channel
  | base
  | shoulder
  | elbow
  | claw
  deriving DecidableEq, Repr

/-- Four like things, one per channel or per payload position (the two index spaces of R51, which
correspond one to one). -/
structure Quad (α : Type) where
  base : α
  shoulder : α
  elbow : α
  claw : α
  deriving DecidableEq, Repr

/-- A JointAngles value: four raw bytes in channel order, each 0..255 and not clamped (R72). -/
abbrev Angles := Quad Byte

end Sys2Proof
end

