-- ==== Sys2Proof/Config.lean ====
section
/-! DEFINITION. The configuration of the command core (spec/00_scope.md R6 to R10): fixed constants, the
sentinels, the open calibration, when a configuration is admitted, and the free values of the model. -/

namespace Sys2Proof

/-- `ANGLE_MAX` (R6). -/
def Config.angleMax : Nat := 180

/-- `FULL_SCALE`, the divisor of the mapping; the source's `PERIOD_FULL_SCALE` (R6, 90_conflicts.md C5). -/
def Config.fullScale : Nat := 180

/-- `DEFAULT_POS` (R6). -/
def Config.defaultPos : Angles := ⟨90, 90, 90, 0⟩

/-- The parameters of R7, R8 and R10 before any check of R9. -/
structure RawConfig where
  /-- `HEADER` (R7). -/
  header : Byte
  /-- `FOOTER` (R7). -/
  footer : Byte
  /-- `MIN_TICKS[0..3]` (R8). -/
  minTicks : Quad Nat
  /-- `MAX_TICKS[0..3]` (R8). -/
  maxTicks : Quad Nat
  /-- `PERIOD_TICKS` (R8). -/
  periodTicks : Nat
  /-- `TICK_WIDTH` (R10). -/
  tickWidth : Nat
  deriving DecidableEq, Repr

/-- Condition (b) of R9 for one channel: `MIN_TICKS[ch] <= MAX_TICKS[ch] <= PERIOD_TICKS`. -/
def RawConfig.channelOk (lo hi period : Nat) : Bool :=
  decide (lo ≤ hi) && decide (hi ≤ period)

/-- R9: the configurations the model gives a meaning to. -/
def RawConfig.isAdmitted (r : RawConfig) : Bool :=
  r.header != r.footer
    && RawConfig.channelOk r.minTicks.base r.maxTicks.base r.periodTicks
    && RawConfig.channelOk r.minTicks.shoulder r.maxTicks.shoulder r.periodTicks
    && RawConfig.channelOk r.minTicks.elbow r.maxTicks.elbow r.periodTicks
    && RawConfig.channelOk r.minTicks.claw r.maxTicks.claw r.periodTicks
    && decide (r.periodTicks < 2 ^ r.tickWidth)

/-- The value `cfg` of R6 to R10, carrying the check of R9, so that a configuration R9 refuses has no
value of this type. -/
structure Config extends RawConfig where
  /-- R9 holds. -/
  ok : toRawConfig.isAdmitted = true
  deriving DecidableEq, Repr

/-- Free value: `MIN_TICKS` of the hardware, which the spec leaves open (D2). -/
opaque Config.freeMinTicks : Channel → Nat

/-- Free value: `MAX_TICKS - MIN_TICKS` of the hardware, a natural number by R9(b) (D2). -/
opaque Config.freeSpan : Channel → Nat

/-- Free value: how far `PERIOD_TICKS` lies above the largest `MAX_TICKS` (D2, R9(b)). -/
opaque Config.freePeriodSlack : Nat

/-- Free value: how many bits `TICK_WIDTH` has beyond the fewest that hold `PERIOD_TICKS`, which are none for a
period of 0 (D3, R9(c)). -/
opaque Config.freeWidthSlack : Nat

/-- Free value: the byte found in a payload register after a `RESET`, which R35 leaves unspecified; the
argument is a draw number, so that two draws need not agree (U7). -/
opaque Config.freeByte : Nat → Byte

/-- The fewest bits that hold `n`, so that `n < 2 ^ bitsFor n`: none for 0, as R9(c) permits. -/
def RawConfig.bitsFor (n : Nat) : Nat := if n = 0 then 0 else Nat.log2 n + 1

/-- A configuration with the sentinels of R7 and four draws: the smallest ticks, the spans, how far the
period lies above the largest `MAX_TICKS`, and how many bits the width has beyond the fewest. Every
combination that R9(b) and (c) allow is one of these (`RawConfig.ofDraws_reaches`). -/
def RawConfig.ofDraws (lo span : Quad Nat) (periodSlack widthSlack : Nat) : RawConfig :=
  let hi : Quad Nat := ⟨lo.base + span.base, lo.shoulder + span.shoulder, lo.elbow + span.elbow,
    lo.claw + span.claw⟩
  let period := max (max hi.base hi.shoulder) (max hi.elbow hi.claw) + periodSlack
  { header := 0xFF
    footer := 0xFE
    minTicks := lo
    maxTicks := hi
    periodTicks := period
    tickWidth := RawConfig.bitsFor period + widthSlack }

/-- The hardware's own parameters: the sentinels of R7 (D1) and an open calibration (D2, D3), every draw a
free value. -/
def RawConfig.implementation : RawConfig :=
  RawConfig.ofDraws
    ⟨Config.freeMinTicks .base, Config.freeMinTicks .shoulder, Config.freeMinTicks .elbow,
      Config.freeMinTicks .claw⟩
    ⟨Config.freeSpan .base, Config.freeSpan .shoulder, Config.freeSpan .elbow, Config.freeSpan .claw⟩
    Config.freePeriodSlack Config.freeWidthSlack

/-- R9 as a proposition. -/
theorem RawConfig.isAdmitted_iff (r : RawConfig) :
    r.isAdmitted = true ↔
      r.header ≠ r.footer
        ∧ (r.minTicks.base ≤ r.maxTicks.base ∧ r.maxTicks.base ≤ r.periodTicks)
        ∧ (r.minTicks.shoulder ≤ r.maxTicks.shoulder ∧ r.maxTicks.shoulder ≤ r.periodTicks)
        ∧ (r.minTicks.elbow ≤ r.maxTicks.elbow ∧ r.maxTicks.elbow ≤ r.periodTicks)
        ∧ (r.minTicks.claw ≤ r.maxTicks.claw ∧ r.maxTicks.claw ≤ r.periodTicks)
        ∧ r.periodTicks < 2 ^ r.tickWidth := by
  simp [RawConfig.isAdmitted, RawConfig.channelOk, and_assoc]

theorem RawConfig.lt_bitsFor (n : Nat) : n < 2 ^ RawConfig.bitsFor n := by
  unfold RawConfig.bitsFor
  split
  · omega
  · exact Nat.lt_log2_self

theorem RawConfig.ofDraws_isAdmitted (lo span : Quad Nat) (periodSlack widthSlack : Nat) :
    (RawConfig.ofDraws lo span periodSlack widthSlack).isAdmitted = true := by
  rw [RawConfig.isAdmitted_iff]
  refine ⟨?_, ?_, ?_, ?_, ?_, ?_⟩
  · show (0xFF : Byte) ≠ 0xFE; decide
  · simp only [RawConfig.ofDraws]; omega
  · simp only [RawConfig.ofDraws]; omega
  · simp only [RawConfig.ofDraws]; omega
  · simp only [RawConfig.ofDraws]; omega
  · exact lt_of_lt_of_le (RawConfig.lt_bitsFor _)
      (Nat.pow_le_pow_right (by decide) (Nat.le_add_right _ _))

theorem RawConfig.implementation_isAdmitted : RawConfig.implementation.isAdmitted = true :=
  RawConfig.ofDraws_isAdmitted _ _ _ _

/-- The configuration the machine has at reset. -/
def Config.implementation : Config :=
  { RawConfig.implementation with ok := RawConfig.implementation_isAdmitted }

end Sys2Proof
end

