-- ==== Sys2Proof/Syntax.lean ====
section
/-! DEFINITION. The syntax of the command core: decoder states, events, the rows of the opcode table as
instructions, the encoded forms of those rows, and trace lines. -/

namespace Sys2Proof

/-- `fstate`, the position in the frame protocol: six values (spec/10_state.md R21). -/
inductive FState
  | idle
  /-- `Collecting(n)`: `n` payload bytes are already stored. -/
  | collecting (n : Fin 4)
  | awaitFooter
  deriving DecidableEq, Repr

/-- The input events of R13. -/
inductive Event
  | reset
  | rxByte (b : Byte)
  | boundary
  | nop
  deriving DecidableEq, Repr

/-- One line of the trace notation of R78; `rxTick b` is `RX b + TICK`. -/
inductive TraceLine
  | reset
  | rx (b : Byte)
  | tick
  | nop
  | rxTick (b : Byte)
  deriving DecidableEq, Repr

/-- One constructor per row of spec/opcode_table.json. -/
inductive Instr
  /-- `RESET`, an input event (R161). -/
  | reset
  /-- `BOUNDARY`, an input event (R142, R163). -/
  | boundary
  /-- `RXBYTE`, an input event (R162). -/
  | rxByte (b : Byte)
  /-- `NOP`, an input event (R164). -/
  | nop
  /-- `IDLE_HEADER`, a byte class (R101). -/
  | idleHeader
  /-- `IDLE_DISCARD`, a byte class (R102). -/
  | idleDiscard (b : Byte)
  /-- `COLLECT`, a byte class; the position `n` comes from `Collecting(n)` (R103). -/
  | collect (n : Fin 4) (b : Byte)
  /-- `FOOTER_ACCEPT`, a byte class (R104). -/
  | footerAccept
  /-- `FOOTER_REJECT`, a byte class (R105). -/
  | footerReject (b : Byte)
  /-- `FRAME b, s, e, c`, a pseudo-instruction (R79). -/
  | frame (t : Angles)
  /-- `BADFRAME b, s, e, c, g`, a pseudo-instruction (R79). -/
  | badFrame (t : Angles) (g : Byte)
  /-- `GARBAGE g1, ..., gk`, a pseudo-instruction (R79). -/
  | garbage (bytes : List Byte)
  /-- `CLAMP`, a mapper function (R120). -/
  | clamp (a : Byte)
  /-- `TICKS`, a mapper function of an angle already clamped (R121). -/
  | ticks (ch : Channel) (a : Byte)
  /-- `REGVAL`, the whole mapper of one channel (R122). -/
  | regval (ch : Channel) (a : Byte)
  /-- `MAP4`, the mapper of all four channels (R128). -/
  | map4 (t : Angles)
  /-- `STAGE`, an internal synchronizer operation (R140). -/
  | stage (ch : Channel) (v : Nat)
  /-- `COMMIT`, an internal synchronizer operation (R141). -/
  | commit
  /-- `APPLY`, an internal synchronizer operation (R143). -/
  | apply (t : Angles)
  deriving DecidableEq, Repr

/-- An encoded row of the opcode table, one constructor per way R81 gives a row its bits. -/
inductive Code
  /-- Format EVENT: the 11-bit event word (R76). -/
  | event (ew : EventWord)
  /-- Format BYTE: the 3-bit code of `fstate` (R22) and `rx_data`. -/
  | byte (state : BitVec 3) (b : Byte)
  /-- Format FRAME: the bytes on the wire, first received first (R70, R79). -/
  | wire (bytes : List Byte)
  /-- Format FUNC, row CLAMP: operand bits `aaaaaaaa`. -/
  | clampOperand (w : BitVec 8)
  /-- Format FUNC, row TICKS: operand bits `ccaaaaaaaa`. -/
  | ticksOperands (w : BitVec 10)
  /-- Format FUNC, row REGVAL: operand bits `ccaaaaaaaa`. -/
  | regvalOperands (w : BitVec 10)
  /-- Format FUNC, row MAP4: operand bits of four angles, Base at the top. -/
  | map4Operands (w : BitVec 32)
  /-- Format OP, row STAGE: no bit pattern; a channel number and a register value. -/
  | stageOperands (ch : BitVec 2) (v : Nat)
  /-- Format OP, row COMMIT: no bit pattern and no operand. -/
  | commitTrigger
  /-- Format OP, row APPLY: operand bits of four angles, Base at the top. -/
  | applyOperands (w : BitVec 32)
  deriving DecidableEq, Repr

/-- Why a code is no instruction. Safe: the spec gives such a code no meaning on any interface. -/
inductive DecodeError
  /-- The wire bytes fit none of the three patterns of R79. -/
  | wireFitsNoPattern
  /-- The operand of TICKS is not a clamped angle 0..180 (R121). -/
  | ticksAngleAbove180
  /-- The operand of STAGE is not in 0 .. PERIOD_TICKS (R140). -/
  | stageValueAbovePeriod
  deriving DecidableEq, Repr

end Sys2Proof
end

