-- ==== Sys2Proof/Decode.lean ====
section
/-! DEFINITION. Decoding and encoding: the event word (spec/30_encoding.md R76, R77), the byte classes
(R71), the wire patterns of the pseudo-instructions (R79), the operand bits of the FUNC and OP rows
(R81), and what the host's table words stand for. -/

namespace Sys2Proof

/-! ### Channels and positions -/

/-- The number of a channel (R11, D9). -/
def Channel.index : Channel → BitVec 2
  | .base => 0
  | .shoulder => 1
  | .elbow => 2
  | .claw => 3

/-- The channel with a given number; every 2-bit number names one (R51). -/
def Channel.ofIndex (n : BitVec 2) : Channel :=
  if n = 0 then .base else if n = 1 then .shoulder else if n = 2 then .elbow else .claw

/-! ### Codes of the decoder state -/

/-- The 3-bit code of `fstate` (R22). -/
def FState.code : FState → BitVec 3
  | .idle => 0
  | .collecting n => BitVec.ofNat 3 (1 + n.val)
  | .awaitFooter => 5

/-- The decoder state with a given code; the unused codes 6 and 7 map to `Idle` (R22, R80). -/
def FState.ofCode (k : BitVec 3) : FState :=
  if k = 1 then .collecting 0
  else if k = 2 then .collecting 1
  else if k = 3 then .collecting 2
  else if k = 4 then .collecting 3
  else if k = 5 then .awaitFooter
  else .idle

/-! ### The event word -/

/-- `{rst, period_tick, rx_valid, rx_data}` (R76). -/
def eventWord (rst tick valid : Bool) (data : Byte) : EventWord :=
  BitVec.ofBool rst ++ BitVec.ofBool tick ++ BitVec.ofBool valid ++ data

/-- Bit 10, the reset request (R76). -/
def wordRst (ew : EventWord) : Bool := ew.getLsbD 10

/-- Bit 9, the period boundary (R76). -/
def wordTick (ew : EventWord) : Bool := ew.getLsbD 9

/-- Bit 8, a byte is delivered (R76). -/
def wordValid (ew : EventWord) : Bool := ew.getLsbD 8

/-- Bits 7..0, the byte (R76). -/
def wordData (ew : EventWord) : Byte := ew.extractLsb' 0 8

/-- R77: the events of one event word, in the order they are processed. `rst` dominates; a coincident
boundary comes before the byte (D5). -/
def events (ew : EventWord) : List Event :=
  if wordRst ew then [.reset]
  else if wordTick ew && wordValid ew then [.boundary, .rxByte (wordData ew)]
  else if wordTick ew then [.boundary]
  else if wordValid ew then [.rxByte (wordData ew)]
  else [.nop]

/-- The event word that presents one event alone; don't-care bits are 0 (R76). -/
def Event.word : Event → EventWord
  | .reset => eventWord true false false 0
  | .rxByte b => eventWord false false true b
  | .boundary => eventWord false true false 0
  | .nop => eventWord false false false 0

/-- The row of the opcode table an event is. -/
def Event.instr : Event → Instr
  | .reset => .reset
  | .rxByte b => .rxByte b
  | .boundary => .boundary
  | .nop => .nop

/-- The event word of one line of trace notation (R78). -/
def TraceLine.word : TraceLine → EventWord
  | .reset => eventWord true false false 0
  | .rx b => eventWord false false true b
  | .tick => eventWord false true false 0
  | .nop => eventWord false false false 0
  | .rxTick b => eventWord false true true b

/-! ### Byte classes -/

/-- R71: which operation a byte is, given the decoder's state. -/
def byteClass (c : Config) (f : FState) (b : Byte) : Instr :=
  match f with
  | .idle => if b = c.header then .idleHeader else .idleDiscard b
  | .collecting n => .collect n b
  | .awaitFooter => if b = c.footer then .footerAccept else .footerReject b

/-! ### Wire patterns -/

/-- The six bytes of a frame whose last byte is `g` (R52, R70, R79). -/
def frameBytes (c : Config) (t : Angles) (g : Byte) : List Byte :=
  [c.header, t.base, t.shoulder, t.elbow, t.claw, g]

/-- R79: which pseudo-instruction a run of wire bytes is, when the decoder is in `Idle` at its first
byte. -/
def decodeWire (c : Config) (bytes : List Byte) : Except DecodeError Instr :=
  match bytes with
  | [] => .error .wireFitsNoPattern
  | [h, b, s, e, cl, g] =>
    if h = c.header then
      if g = c.footer then .ok (.frame ⟨b, s, e, cl⟩) else .ok (.badFrame ⟨b, s, e, cl⟩ g)
    else if [h, b, s, e, cl, g].all (fun x => x != c.header) then
      .ok (.garbage [h, b, s, e, cl, g])
    else .error .wireFitsNoPattern
  | _ =>
    if bytes.all (fun x => x != c.header) then .ok (.garbage bytes) else .error .wireFitsNoPattern

/-! ### Operand bits of the FUNC and OP rows -/

/-- `ccaaaaaaaa`: the channel over the angle (R81). -/
def packChannelAngle (ch : Channel) (a : Byte) : BitVec 10 := ch.index ++ a

/-- The field `cc` of `ccaaaaaaaa`. -/
def operandChannel (w : BitVec 10) : Channel := Channel.ofIndex (w.extractLsb' 8 2)

/-- The field `aaaaaaaa` of `ccaaaaaaaa`. -/
def operandAngle (w : BitVec 10) : Byte := w.extractLsb' 0 8

/-- `bbbbbbbbsssssssseeeeeeeecccccccc` (R81). -/
def packAngles (t : Angles) : BitVec 32 := t.base ++ t.shoulder ++ t.elbow ++ t.claw

/-- The four angles of `bbbbbbbbsssssssseeeeeeeecccccccc`. -/
def operandAngles (w : BitVec 32) : Angles :=
  ⟨w.extractLsb' 24 8, w.extractLsb' 16 8, w.extractLsb' 8 8, w.extractLsb' 0 8⟩

/-! ### Decode and encode -/

/-- Decoding, total on every code: the instructions the code stands for, in the order they run (an event
word can hold two, R77), or a rejection by name. -/
def decode (c : Config) : Code → Except DecodeError (List Instr)
  | .event ew => .ok ((events ew).map Event.instr)
  | .byte k b => .ok [byteClass c (FState.ofCode k) b]
  | .wire bytes => (decodeWire c bytes).map (fun i => [i])
  | .clampOperand w => .ok [.clamp w]
  | .ticksOperands w =>
    if (operandAngle w).toNat ≤ Config.angleMax then
      .ok [.ticks (operandChannel w) (operandAngle w)]
    else .error .ticksAngleAbove180
  | .regvalOperands w => .ok [.regval (operandChannel w) (operandAngle w)]
  | .map4Operands w => .ok [.map4 (operandAngles w)]
  | .stageOperands k v =>
    if v ≤ c.periodTicks then .ok [.stage (Channel.ofIndex k) v] else .error .stageValueAbovePeriod
  | .commitTrigger => .ok [.commit]
  | .applyOperands w => .ok [.apply (operandAngles w)]

/-- Encoding, from the same table. -/
def encode (c : Config) : Instr → Code
  | .reset => .event (Event.word .reset)
  | .boundary => .event (Event.word .boundary)
  | .rxByte b => .event (Event.word (.rxByte b))
  | .nop => .event (Event.word .nop)
  | .idleHeader => .byte (FState.code .idle) c.header
  | .idleDiscard b => .byte (FState.code .idle) b
  | .collect n b => .byte (FState.code (.collecting n)) b
  | .footerAccept => .byte (FState.code .awaitFooter) c.footer
  | .footerReject b => .byte (FState.code .awaitFooter) b
  | .frame t => .wire (frameBytes c t c.footer)
  | .badFrame t g => .wire (frameBytes c t g)
  | .garbage bytes => .wire bytes
  | .clamp a => .clampOperand a
  | .ticks ch a => .ticksOperands (packChannelAngle ch a)
  | .regval ch a => .regvalOperands (packChannelAngle ch a)
  | .map4 t => .map4Operands (packAngles t)
  | .stage ch v => .stageOperands ch.index v
  | .commit => .commitTrigger
  | .apply t => .applyOperands (packAngles t)

/-- The trace an instruction stands for at the event level: an event is itself, a byte class is the byte
it takes, a pseudo-instruction its expansion (R79); a FUNC or OP row is no event (R81). -/
def traceOf (c : Config) : Instr → List Event
  | .reset => [.reset]
  | .boundary => [.boundary]
  | .rxByte b => [.rxByte b]
  | .nop => [.nop]
  | .idleHeader => [.rxByte c.header]
  | .idleDiscard b => [.rxByte b]
  | .collect _ b => [.rxByte b]
  | .footerAccept => [.rxByte c.footer]
  | .footerReject b => [.rxByte b]
  | .frame t => (frameBytes c t c.footer).map Event.rxByte
  | .badFrame t g => (frameBytes c t g).map Event.rxByte
  | .garbage bytes => bytes.map Event.rxByte
  | .clamp _ => []
  | .ticks _ _ => []
  | .regval _ _ => []
  | .map4 _ => []
  | .stage _ _ => []
  | .commit => []
  | .apply _ => []

/-- The event words that present an instruction at the ports, one per clock step (none for a row that has
no bit pattern on any interface, R81). -/
def portWords (c : Config) (i : Instr) : List EventWord :=
  (traceOf c i).map Event.word

/-! ### The host's table words -/

/-- The bytes of a table word of `n` bytes. The pattern of R70 has the byte received first on the left, so the
most significant byte comes first. -/
def tableBytes : Nat → Nat → List Byte
  | 0, _ => []
  | n + 1, w => BitVec.ofNat 8 (w / 256 ^ n) :: tableBytes n w

/-- The decoder state under which the table's 8-bit word is read: the state of the row whose match is
that very byte, else `Idle` (log entry 13). -/
def tableState (b : Byte) : FState :=
  if b = Config.implementation.footer then .awaitFooter else .idle

/-- The instruction the decoder reads from a word of the opcode table: 8 bits are a byte class, up to 16
bits an event word, 48 bits a frame on the wire in the order of R70 (log entries 12 and 13); no other
length is on an interface (R81). -/
def decodeTableWord (nbits w : Nat) : Option Instr :=
  if nbits = 8 then
    let b := BitVec.ofNat 8 w
    if w < 256 then some (byteClass Config.implementation (tableState b) b) else none
  else if nbits = 16 then
    if w < 2048 then ((events (BitVec.ofNat 11 w)).map Event.instr).head? else none
  else if nbits = 48 then
    if w < 2 ^ 48 then (decodeWire Config.implementation (tableBytes 6 w)).toOption else none
  else none

/-- The event words that present a table word at the ports. -/
def tableWords (nbits w : Nat) : List EventWord :=
  if nbits = 8 then [Event.word (.rxByte (BitVec.ofNat 8 w))]
  else if nbits = 16 then [BitVec.ofNat 11 w]
  else if nbits = 48 then (tableBytes 6 w).map (fun b => Event.word (.rxByte b))
  else []

/-- The decoder state a table word is read in, where it needs one: a byte class its row's state, a frame
`Idle` (R81). -/
def tableFState (nbits w : Nat) : Option FState :=
  if nbits = 8 then some (tableState (BitVec.ofNat 8 w))
  else if nbits = 48 then some .idle
  else none

end Sys2Proof
end

