-- ==== Sys2Proof/Machine/Operands.lean ====
section
/-! DEFINITION. Operand forms: the register reads and writes `x[i]` of spec/00_scope.md R12 over a
4-tuple, and the payload position as a channel (spec/20_memory.md R51). -/

namespace Sys2Proof.Machine

/-- The read `x[ch]` (R12). -/
def quadGet {α : Type} (q : Quad α) : Channel → α
  | .base => q.base
  | .shoulder => q.shoulder
  | .elbow => q.elbow
  | .claw => q.claw

/-- The write `x[ch] <- v` (R12); the other three are unchanged. -/
def quadSet {α : Type} (q : Quad α) (ch : Channel) (v : α) : Quad α :=
  match ch with
  | .base => { q with base := v }
  | .shoulder => { q with shoulder := v }
  | .elbow => { q with elbow := v }
  | .claw => { q with claw := v }

/-- Payload position `n` is the angle of channel `n` (R51). -/
def positionChannel (n : Fin 4) : Channel :=
  match n with
  | 0 => .base
  | 1 => .shoulder
  | 2 => .elbow
  | 3 => .claw

/-- Operand assembly (R72): a payload byte as an unsigned number, unscaled. -/
def angleOf (b : Byte) : Nat := b.toNat

end Sys2Proof.Machine
end

