-- ==== Sys2Proof/Machine/DutyMapper.lean ====
section
/-! DEFINITION. Block 2, the PWM duty mapper (spec/41_duty_mapper.md): combinational functions of the
configuration, a channel and an angle, in exact natural-number arithmetic (R124, R127). -/

namespace Sys2Proof.Machine

/-- `CLAMP` (R120). -/
def clampAngle (angle : Nat) : Nat := min angle Config.angleMax

/-- `span = MAX_TICKS[ch] - MIN_TICKS[ch]` (R121), never negative by R9(b). -/
def spanOf (c : Config) (ch : Channel) : Nat := quadGet c.maxTicks ch - quadGet c.minTicks ch

/-- `TICKS` (R121): one multiplication, then one division, then the offset (R124). -/
def ticksOf (c : Config) (ch : Channel) (a : Nat) : Nat :=
  quadGet c.minTicks ch + a * spanOf c ch / Config.fullScale

/-- `REGVAL` (R122): clamp, scale, complement. -/
def regvalOf (c : Config) (ch : Channel) (angle : Byte) : Nat :=
  c.periodTicks - ticksOf c ch (clampAngle (angleOf angle))

/-- `MAP4` (R128): four independent lanes. -/
def map4Of (c : Config) (t : Angles) : Quad Nat :=
  ⟨regvalOf c .base t.base, regvalOf c .shoulder t.shoulder, regvalOf c .elbow t.elbow,
    regvalOf c .claw t.claw⟩

/-- The high time per period of a channel whose duty register holds `v` (R150). -/
def highTicks (c : Config) (v : Nat) : Nat := c.periodTicks - v

end Sys2Proof.Machine
end

