-- ==== Sys2Proof/Machine/State.lean ====
section
/-! DEFINITION. The state of the command core (spec/10_state.md R20, with the model's own fields), its
value after reset (R35), and the reasons a step can stop. -/

namespace Sys2Proof.Machine

/-- What an instruction puts out: the emission of R28, or the result of a mapper function, which is
combinational and writes no register (R127). -/
inductive Output
  /-- `frame_ready = 1` with `angles_out` (R28). -/
  | frameReady (t : Angles)
  /-- The result of `CLAMP` (R120). -/
  | clamped (a : Nat)
  /-- The result of `TICKS` (R121). -/
  | ticks (n : Nat)
  /-- The result of `REGVAL` (R122). -/
  | regval (v : Nat)
  /-- The result of `MAP4` (R128). -/
  | duties (q : Quad Nat)
  deriving DecidableEq, Repr

/-- The machine's state. The first six fields are the whole state of R20; the last four are the model's
own (log entries 1, 2, 4, 5). -/
structure State where
  /-- `fstate` (R21). -/
  fstate : FState
  /-- `payload[0..3]` (R23). -/
  payload : Quad Byte
  /-- `cmd[0..3]`, the Commanded Position (R24). -/
  cmd : Angles
  /-- `shadow[0..3]`, staged register values (R25, R10). -/
  shadow : Quad Nat
  /-- `sync_pending` (R27). -/
  syncPending : Bool
  /-- `live[0..3]`, the register values driven to `duty_out` (R26, R10). -/
  live : Quad Nat
  /-- Model's own: the configuration, which no event changes (R30). -/
  cfg : Config
  /-- Model's own: the event words of the coming clock steps, oldest first (R76, R166). -/
  input : List EventWord
  /-- Model's own: the outputs of the last instruction, in order (R28, R167). -/
  out : List Output
  /-- Model's own: how many free values have been drawn. -/
  freeCount : Nat
  deriving DecidableEq, Repr

/-- The reasons a step can fault: none. The hardware has "no exception, trap or fault mechanism" (R180),
and a step of an admitted configuration "never faults" (R14). -/
inductive Fault
  deriving DecidableEq, Repr

/-- The reasons the model gives an instruction no meaning. -/
inductive Refusal
  /-- Raised by `exec` for an instruction whose meaning is not written yet; no arm of this model raises
  it. Safe: the machine stops where the hardware goes on. -/
  | notModelled (mnemonic : String)
  deriving DecidableEq, Repr

/-- The state right after reset (R35). `payload` is unspecified there and 0 here (log entry 3). -/
def State.reset : State :=
  { fstate := .idle
    payload := ⟨0, 0, 0, 0⟩
    cmd := Config.defaultPos
    shadow := map4Of Config.implementation Config.defaultPos
    syncPending := false
    live := map4Of Config.implementation Config.defaultPos
    cfg := Config.implementation
    input := []
    out := []
    freeCount := 0 }

end Sys2Proof.Machine
end

