-- ==== Sys2Proof/Machine/Flags.lean ====
section
/-! DEFINITION. The two flags (spec/10_state.md): the state flag `sync_pending` (R27) and the output pulse
`frame_ready` with `angles_out` (R28), and the output port `duty_out` (R29). -/

namespace Sys2Proof.Machine

/-- Sets `sync_pending` (R27, R141). -/
def setSyncPending (s : State) : State := { s with syncPending := true }

/-- Clears `sync_pending` (R27, R142). -/
def clearSyncPending (s : State) : State := { s with syncPending := false }

/-- The emissions among some outputs, in order. -/
def emissionsOf : List Output → List Angles
  | [] => []
  | .frameReady t :: rest => t :: emissionsOf rest
  | .clamped _ :: rest => emissionsOf rest
  | .ticks _ :: rest => emissionsOf rest
  | .regval _ :: rest => emissionsOf rest
  | .duties _ :: rest => emissionsOf rest

/-- The port `angles_out` of the last step; it has a value only while `frame_ready = 1` (R28, U9). -/
def anglesOut (s : State) : Option Angles := (emissionsOf s.out).head?

/-- The port `frame_ready` of the last step (R28). -/
def frameReady (s : State) : Bool := (anglesOut s).isSome

/-- The ports `duty_out[0..3]`, always equal to `live[0..3]` (R29). -/
def dutyOut (s : State) : Quad Nat := s.live

/-- Records that the instruction put nothing out. -/
def silent (s : State) : State := { s with out := [] }

/-- Records the result of a mapper function. -/
def putOut (o : Output) (s : State) : State := { s with out := [o] }

/-- Records the emission of one event, the second result of `STEP` (R13, R28). -/
def emitting (r : State × Option Angles) : State :=
  { r.1 with out := r.2.toList.map Output.frameReady }

/-- Records the emissions of a run, in order (R167). -/
def emittingAll (r : State × List Angles) : State :=
  { r.1 with out := r.2.map Output.frameReady }

end Sys2Proof.Machine
end

