-- ==== Sys2Proof/Machine/Ops.lean ====
section
/-! DEFINITION. The named operations on the state that the meanings share: reset, the frame decoder's
transition, staging, the trigger, the transfer, `APPLY`, `STEP` and `RUN`, and taking the next event
word. The hardware takes no exception and returns from none (spec/60_exceptions.md R180, R189, R190), so
there is no such operation here. -/

namespace Sys2Proof.Machine

/-! ### Reset -/

/-- Four free bytes, drawn at `n`: the unspecified content of `payload` after a `RESET` (R35, U7). -/
def freePayload (n : Nat) : Quad Byte :=
  ⟨Config.freeByte n, Config.freeByte (n + 1), Config.freeByte (n + 2), Config.freeByte (n + 3)⟩

/-- `RESET`: every field takes its value of R35, whatever it was (R161, R200). -/
def resetCore (s : State) : State :=
  { s with
    fstate := .idle
    payload := freePayload s.freeCount
    cmd := Config.defaultPos
    shadow := map4Of s.cfg Config.defaultPos
    syncPending := false
    live := map4Of s.cfg Config.defaultPos
    freeCount := s.freeCount + 4 }

/-! ### The synchronizer -/

/-- `STAGE` (R140). -/
def stage (ch : Channel) (v : Nat) (s : State) : State :=
  { s with shadow := quadSet s.shadow ch v }

/-- `COMMIT` (R141). -/
def commit (s : State) : State := setSyncPending s

/-- `BOUNDARY` (R142): all four live registers in one step, and only when a trigger is pending. -/
def transfer (s : State) : State :=
  clearSyncPending (if s.syncPending then { s with live := s.shadow } else s)

/-- `APPLY` (R143): the whole tuple into `cmd`, the four stagings in order, the trigger; one step. -/
def applyTuple (t : Angles) (s : State) : State :=
  let s0 := { s with cmd := t }
  let s1 := stage .base (regvalOf s.cfg .base t.base) s0
  let s2 := stage .shoulder (regvalOf s.cfg .shoulder t.shoulder) s1
  let s3 := stage .elbow (regvalOf s.cfg .elbow t.elbow) s2
  let s4 := stage .claw (regvalOf s.cfg .claw t.claw) s3
  commit s4

/-! ### The frame decoder -/

/-- The successor of `Collecting(n)` (R103). -/
def afterCollect (n : Fin 4) : FState :=
  if h : n.val + 1 < 4 then .collecting ⟨n.val + 1, h⟩ else .awaitFooter

/-- `payload[n] <- b` (R103). -/
def storePayload (n : Fin 4) (b : Byte) (p : Quad Byte) : Quad Byte :=
  quadSet p (positionChannel n) b

/-- `DECODE` (R100): the transition table of the frame decoder. -/
def decodeByte (c : Config) (f : FState) (p : Quad Byte) (b : Byte) :
    FState × Quad Byte × Option Angles :=
  match f with
  | .idle => if b = c.header then (.collecting 0, p, none) else (.idle, p, none)
  | .collecting n => (afterCollect n, storePayload n b p, none)
  | .awaitFooter => if b = c.footer then (.idle, p, some p) else (.idle, p, none)

/-! ### The step and a run -/

/-- `STEP` on `RXBYTE(b)` (R162): the decoder's transition and, where it emits, `APPLY`, in one step. -/
def receive (b : Byte) (s : State) : State × Option Angles :=
  match decodeByte s.cfg s.fstate s.payload b with
  | (f, p, none) => ({ s with fstate := f, payload := p }, none)
  | (f, p, some t) => (applyTuple t { s with fstate := f, payload := p }, some t)

/-- `STEP` (R160). -/
def stepEvent : Event → State → State × Option Angles
  | .reset, s => (resetCore s, none)
  | .rxByte b, s => receive b s
  | .boundary, s => (transfer s, none)
  | .nop, s => (s, none)

/-- `RUN` (R167): the events from left to right, with the emissions in order. -/
def runEvents : List Event → State → State × List Angles
  | [], s => (s, [])
  | e :: rest, s =>
    let r := stepEvent e s
    let q := runEvents rest r.1
    (q.1, r.2.toList ++ q.2)

/-! ### Taking the next event word -/

/-- The event word at this clock edge and the state that has consumed it; when nothing is presented the
word is 0, a clock step with no input (R164). -/
def fetchWord (s : State) : EventWord × State :=
  match s.input with
  | [] => (0, s)
  | ew :: rest => (ew, { s with input := rest })

/-- One meaning after another: the second runs on the first one's next state. -/
def andThen (r : Host.Outcome State Fault Refusal)
    (k : State → Host.Outcome State Fault Refusal) : Host.Outcome State Fault Refusal :=
  match r with
  | .next s => k s
  | .fault f => .fault f
  | .refused x => .refused x

end Sys2Proof.Machine
end

