-- ==== Sys2Proof/Machine/CoreEvents.lean ====
section
/-! DEFINITION. The four input events as instructions (spec/43_core_step.md R160 to R164). -/

namespace Sys2Proof.Machine

/-- `RESET` (R161, R200): reset values everywhere, no emission. -/
def execReset (s : State) : Host.Outcome State Fault Refusal :=
  .next (silent (resetCore s))

/-- `BOUNDARY` (R142, R163): the transfer, no emission. -/
def execBoundary (s : State) : Host.Outcome State Fault Refusal :=
  .next (silent (transfer s))

/-- `RXBYTE b` (R162): the decoder's transition and its emission. -/
def execRxByte (b : Byte) (s : State) : Host.Outcome State Fault Refusal :=
  .next (emitting (receive b s))

/-- `NOP` (R164): no state changes, no emission. -/
def execNop (s : State) : Host.Outcome State Fault Refusal :=
  .next (silent s)

end Sys2Proof.Machine
end

