-- ==== Sys2Proof/Machine/FrameDecoder.lean ====
section
/-! DEFINITION. Block 1, the five byte-class operations of the frame decoder (spec/40_frame_decoder.md
R101 to R105). Each is the pseudocode of its rule; which one a byte is in which state is the decoder's
matter (`byteClass`, R71; log entry 9). -/

namespace Sys2Proof.Machine

/-- `IDLE_HEADER` (R101). -/
def execIdleHeader (s : State) : Host.Outcome State Fault Refusal :=
  .next (silent { s with fstate := .collecting 0 })

/-- `IDLE_DISCARD` (R102): nothing is written. -/
def execIdleDiscard (_b : Byte) (s : State) : Host.Outcome State Fault Refusal :=
  .next (silent s)

/-- `COLLECT` (R103). -/
def execCollect (n : Fin 4) (b : Byte) (s : State) : Host.Outcome State Fault Refusal :=
  .next (silent { s with payload := storePayload n b s.payload, fstate := afterCollect n })

/-- `FOOTER_ACCEPT` (R104): emits the payload, and in the same step issues `APPLY` (R143, R162). -/
def execFooterAccept (s : State) : Host.Outcome State Fault Refusal :=
  .next (emitting (applyTuple s.payload { s with fstate := .idle }, some s.payload))

/-- `FOOTER_REJECT` (R105). -/
def execFooterReject (_b : Byte) (s : State) : Host.Outcome State Fault Refusal :=
  .next (silent { s with fstate := .idle })

end Sys2Proof.Machine
end

