-- ==== Sys2Proof/Machine/MapperRows.lean ====
section
/-! DEFINITION. The four mapper functions as instructions (spec/41_duty_mapper.md R120, R121, R122, R128):
each puts its result out and writes no register (R127; log entry 5). -/

namespace Sys2Proof.Machine

/-- `CLAMP a` (R120). -/
def execClamp (a : Byte) (s : State) : Host.Outcome State Fault Refusal :=
  .next (putOut (.clamped (clampAngle (angleOf a))) s)

/-- `TICKS ch, a` (R121). -/
def execTicks (ch : Channel) (a : Byte) (s : State) : Host.Outcome State Fault Refusal :=
  .next (putOut (.ticks (ticksOf s.cfg ch (angleOf a))) s)

/-- `REGVAL ch, a` (R122). -/
def execRegval (ch : Channel) (a : Byte) (s : State) : Host.Outcome State Fault Refusal :=
  .next (putOut (.regval (regvalOf s.cfg ch a)) s)

/-- `MAP4 b, s, e, c` (R128). -/
def execMap4 (t : Angles) (s : State) : Host.Outcome State Fault Refusal :=
  .next (putOut (.duties (map4Of s.cfg t)) s)

end Sys2Proof.Machine
end

