-- ==== Sys2Proof/Machine/PseudoFrames.lean ====
section
/-! DEFINITION. The pseudo-instructions of spec/30_encoding.md R79: each is `RUN` (R167) over its
expansion into `RXBYTE` events, with nothing in between (log entry 11). -/

namespace Sys2Proof.Machine

/-- `RUN` over the delivery of some bytes. -/
def runBytes (bytes : List Byte) (s : State) : State × List Angles :=
  runEvents (bytes.map Event.rxByte) s

/-- `FRAME b, s, e, c` (R79): `RX HEADER; RX b; RX s; RX e; RX c; RX FOOTER`. -/
def execFrame (t : Angles) (s : State) : Host.Outcome State Fault Refusal :=
  .next (emittingAll (runBytes (frameBytes s.cfg t s.cfg.footer) s))

/-- `BADFRAME b, s, e, c, g` (R79): the same with `g` as the sixth byte. -/
def execBadFrame (t : Angles) (g : Byte) (s : State) : Host.Outcome State Fault Refusal :=
  .next (emittingAll (runBytes (frameBytes s.cfg t g) s))

/-- `GARBAGE g1, ..., gk` (R79): `RX g1; ...; RX gk`. -/
def execGarbage (bytes : List Byte) (s : State) : Host.Outcome State Fault Refusal :=
  .next (emittingAll (runBytes bytes s))

end Sys2Proof.Machine
end

