-- ==== Sys2Proof/Machine/Synchronizer.lean ====
section
/-! DEFINITION. Block 3, the internal operations of the commit synchronizer (spec/42_commit_synchronizer.md
R140, R141, R143). The core issues none of them alone (D23): `step` runs them only inside
`FOOTER_ACCEPT`. -/

namespace Sys2Proof.Machine

/-- `STAGE ch, v` (R140). -/
def execStage (ch : Channel) (v : Nat) (s : State) : Host.Outcome State Fault Refusal :=
  .next (silent (stage ch v s))

/-- `COMMIT` (R141). -/
def execCommit (s : State) : Host.Outcome State Fault Refusal :=
  .next (silent (commit s))

/-- `APPLY t` (R143). -/
def execApply (t : Angles) (s : State) : Host.Outcome State Fault Refusal :=
  .next (silent (applyTuple t s))

end Sys2Proof.Machine
end

