-- ==== Sys2Proof/Machine/Dispatch.lean ====
section
/-! DEFINITION. The meaning of every instruction, one arm per constructor. -/

namespace Sys2Proof.Machine

def exec (i : Instr) (s : State) : Host.Outcome State Fault Refusal :=
  match i with
  | .reset => Sys2Proof.Machine.execReset s
  | .boundary => Sys2Proof.Machine.execBoundary s
  | .rxByte b => Sys2Proof.Machine.execRxByte b s
  | .nop => Sys2Proof.Machine.execNop s
  | .idleHeader => Sys2Proof.Machine.execIdleHeader s
  | .idleDiscard b => Sys2Proof.Machine.execIdleDiscard b s
  | .collect n b => Sys2Proof.Machine.execCollect n b s
  | .footerAccept => Sys2Proof.Machine.execFooterAccept s
  | .footerReject b => Sys2Proof.Machine.execFooterReject b s
  | .frame t => Sys2Proof.Machine.execFrame t s
  | .badFrame t g => Sys2Proof.Machine.execBadFrame t g s
  | .garbage bytes => Sys2Proof.Machine.execGarbage bytes s
  | .clamp a => Sys2Proof.Machine.execClamp a s
  | .ticks ch a => Sys2Proof.Machine.execTicks ch a s
  | .regval ch a => Sys2Proof.Machine.execRegval ch a s
  | .map4 t => Sys2Proof.Machine.execMap4 t s
  | .stage ch v => Sys2Proof.Machine.execStage ch v s
  | .commit => Sys2Proof.Machine.execCommit s
  | .apply t => Sys2Proof.Machine.execApply t s

end Sys2Proof.Machine
end

