-- ==== Sys2Proof/Machine/Step.lean ====
section
/-! DEFINITION. One clock step: the next event word, its events in order (spec/30_encoding.md R77,
spec/43_core_step.md R165), and the host's placing of an instruction where the step takes it from. -/

namespace Sys2Proof.Machine

/-- The events of one clock step, each completely before the next (R60, R165). -/
def execEvents : List Event → State → Host.Outcome State Fault Refusal
  | [], s => .next s
  | e :: rest, s => andThen (exec e.instr s) (execEvents rest)

/-- One clock step (R165). -/
def step (s : State) : Host.Outcome State Fault Refusal :=
  execEvents (events (fetchWord s).1) (fetchWord s).2

/-- The state in which the next step takes the table word `w`: its event words come first at the ports,
and the decoder is in the state the table gives that row, where it gives one (log entries 1 and 13). -/
def State.withFetchWord (s : State) (nbits w : Nat) : State :=
  { s with
    fstate := (tableFState nbits w).getD s.fstate
    input := tableWords nbits w ++ s.input }

end Sys2Proof.Machine
end

