-- ==== Sys2Proof/WellFormed.lean ====
section
/-! DEFINITION. The checks: which configurations R9 admits (a refused one is refused by name) and which
operands the spec gives each instruction. -/

namespace Sys2Proof

/-- Which condition of R9 a configuration breaks. Safe: R9 says that a model refuses it. -/
inductive ConfigError
  /-- R9(a): `HEADER = FOOTER`. -/
  | sentinelsEqual
  /-- R9(b): not `MIN_TICKS[ch] <= MAX_TICKS[ch] <= PERIOD_TICKS`. -/
  | calibrationOutOfOrder (ch : Channel)
  /-- R9(c): `PERIOD_TICKS` does not fit `TICK_WIDTH` bits. -/
  | periodTooWide
  deriving DecidableEq, Repr

/-- The first condition of R9, in its order, that fails (meaningful for a refused configuration); the names
are the model's own (log entry 2). -/
def RawConfig.defect (r : RawConfig) : ConfigError :=
  if r.header == r.footer then .sentinelsEqual
  else if !RawConfig.channelOk r.minTicks.base r.maxTicks.base r.periodTicks then
    .calibrationOutOfOrder .base
  else if !RawConfig.channelOk r.minTicks.shoulder r.maxTicks.shoulder r.periodTicks then
    .calibrationOutOfOrder .shoulder
  else if !RawConfig.channelOk r.minTicks.elbow r.maxTicks.elbow r.periodTicks then
    .calibrationOutOfOrder .elbow
  else if !RawConfig.channelOk r.minTicks.claw r.maxTicks.claw r.periodTicks then
    .calibrationOutOfOrder .claw
  else .periodTooWide

/-- R9, R14: the one refusal of the spec, of an ill-formed configuration. -/
def RawConfig.accept (r : RawConfig) : Except ConfigError Config :=
  if h : r.isAdmitted = true then .ok { r with ok := h } else .error r.defect

/-- The operand ranges of the opcode table: R71 for the byte classes, R79 for the pseudo-instructions (the
table's row GARBAGE has "one or more bytes"), R121 and R140 for TICKS and STAGE. -/
def Instr.wellFormed (c : Config) : Instr → Bool
  | .reset => true
  | .boundary => true
  | .rxByte _ => true
  | .nop => true
  | .idleHeader => true
  | .idleDiscard b => b != c.header
  | .collect _ _ => true
  | .footerAccept => true
  | .footerReject b => b != c.footer
  | .frame _ => true
  | .badFrame _ g => g != c.footer
  | .garbage bytes => !bytes.isEmpty && bytes.all (fun g => g != c.header)
  | .clamp _ => true
  | .ticks _ a => decide (a.toNat ≤ Config.angleMax)
  | .regval _ _ => true
  | .map4 _ => true
  | .stage _ v => decide (v ≤ c.periodTicks)
  | .commit => true
  | .apply _ => true

end Sys2Proof
end

