-- ==== Sys2Proof/Safety.lean ====
section
/-! DEFINITION. The terms claims use: the invariants of the state (spec/10_state.md R32), what an observer
sees (spec/43_core_step.md R168), and the labels of the silent error conditions
(spec/60_exceptions.md R181 to R185). -/

namespace Sys2Proof.Machine

/-! ### Invariants -/

/-- Every value of a duty register file lies in `0 .. PERIOD_TICKS` (R32, I6). -/
def InPeriod (c : Config) (q : Quad Nat) : Prop :=
  ∀ ch : Channel, quadGet q ch ≤ c.periodTicks

/-- The state invariants of R32. (I1) holds by the type of `fstate`; the history half of (I2) and (I4) is
said of steps and runs. -/
structure StateInv (s : State) : Prop where
  /-- (I3): what is staged is the Commanded Position, mapped. -/
  shadow_eq : s.shadow = map4Of s.cfg s.cmd
  /-- (I4): the live registers show one complete tuple. -/
  live_eq : ∃ t : Angles, s.live = map4Of s.cfg t
  /-- (I5): with no trigger pending nothing staged is waiting. -/
  settled : s.syncPending = false → s.live = s.shadow
  /-- (I6) for `shadow`. -/
  shadow_range : InPeriod s.cfg s.shadow
  /-- (I6) for `live`. -/
  live_range : InPeriod s.cfg s.live

/-! ### Payload positions not yet written -/

/-- `COLLECT` has written payload position `k` in the frame in progress (R23, R103). -/
def WrittenInFrame : FState → Fin 4 → Prop
  | .idle, _ => False
  | .collecting n, k => k < n
  | .awaitFooter, _ => True

/-- Two states that are equal but for payload positions not yet written in the frame in progress (R35). -/
def SameButStale (s t : State) : Prop :=
  ∃ p : Quad Byte, t = { s with payload := p } ∧
    ∀ k : Fin 4, WrittenInFrame s.fstate k →
      quadGet p (positionChannel k) = quadGet s.payload (positionChannel k)

/-! ### Traces -/

/-- The bytes a trace delivers, in order. -/
def bytesOf : List Event → List Byte
  | [] => []
  | .rxByte b :: rest => b :: bytesOf rest
  | .reset :: rest => bytesOf rest
  | .boundary :: rest => bytesOf rest
  | .nop :: rest => bytesOf rest

/-- The event neither delivers a byte nor resets: a boundary or a step with no input. -/
def Quiet (e : Event) : Prop := e = .boundary ∨ e = .nop

/-- All 256 byte values. -/
def allBytes : List Byte := (List.range 256).map (BitVec.ofNat 8)

/-- `n` clock steps, one after another (R165). -/
def runSteps : Nat → State → Host.Outcome State Fault Refusal
  | 0, s => .next s
  | n + 1, s => andThen (step s) (runSteps n)

/-! ### Observation -/

/-- What an outside observer sees after a step (R168). -/
structure Observation where
  /-- The ports `duty_out[0..3]`. -/
  duty : Quad Nat
  /-- The emission of the step. -/
  emitted : List Angles
  deriving DecidableEq, Repr

/-- The observation of a state right after a step. -/
def observation (s : State) : Observation := ⟨dutyOut s, emissionsOf s.out⟩

/-- The observations of the next `n` steps, in order. -/
def observe : Nat → State → List Observation
  | 0, _ => []
  | n + 1, s =>
    match step s with
    | .next t => observation t :: observe n t
    | .fault _ => []
    | .refused _ => []

/-! ### Error conditions -/

/-- The conditions of R185 that can arise; E4 cannot (R184). The hardware has no codes for them. -/
inductive ErrorCondition
  /-- E1, framing desync in `Idle` (R181). -/
  | framingDesync
  /-- E2, wrong footer (R182). -/
  | wrongFooter
  /-- E3, out-of-range angle of one channel (R183). -/
  | angleOutOfRange (ch : Channel)
  deriving DecidableEq, Repr

/-- The channels of an accepted tuple whose angle is above 180 (R183). -/
def outOfRange (t : Angles) : List ErrorCondition :=
  ([Channel.base, .shoulder, .elbow, .claw].filter
    (fun ch => decide (Config.angleMax < (quadGet t ch).toNat))).map .angleOutOfRange

/-- The error conditions a byte raises in a state (R185). -/
def errorsOf (s : State) (b : Byte) : List ErrorCondition :=
  match s.fstate with
  | .idle => if b = s.cfg.header then [] else [.framingDesync]
  | .collecting _ => []
  | .awaitFooter => if b = s.cfg.footer then outOfRange s.payload else [.wrongFooter]

end Sys2Proof.Machine
end

