-- ==== Sys2Proof/Certificates/Slice0/Obligations.lean ====
section
/-! DEFINITION. The statements for the provers. Each docstring names the rule it formalises; a statement
that rests on a choice of the model says so and names the log entry. An equation
`exec i s = .next { s with … }` also says the frame: every field it does not name is unchanged. -/

open Sys2Proof Sys2Proof.Machine

/-! ### Encoding -/

/-- R71, R76, R79, R81: decoding undoes encoding for every well-formed instruction, every operand at every
value its encoding admits. The form of the FUNC and OP codes is the model's (log entry 12). -/
def Obligations.DecodeEncodeRoundTrip : Prop :=
  ∀ (c : Config) (i : Instr), i.wellFormed c = true → decode c (encode c i) = .ok [i]

/-- R76, R77: the fields of the event word, the events it yields, and that the clock step processes them in
list order. The layout and the order of coincident events are the spec's own choice (R76, R77: decision D5; log
entry 15). -/
def Obligations.EventWordYieldsEventsInOrder : Prop :=
  (∀ (rst tick valid : Bool) (d : Byte),
      wordRst (eventWord rst tick valid d) = rst ∧ wordTick (eventWord rst tick valid d) = tick ∧
      wordValid (eventWord rst tick valid d) = valid ∧ wordData (eventWord rst tick valid d) = d) ∧
  (∀ ew : EventWord,
      events ew =
        if ew.getLsbD 10 then [.reset]
        else if ew.getLsbD 9 && ew.getLsbD 8 then [.boundary, .rxByte (ew.extractLsb' 0 8)]
        else if ew.getLsbD 9 then [.boundary]
        else if ew.getLsbD 8 then [.rxByte (ew.extractLsb' 0 8)]
        else [.nop]) ∧
  (∀ (s : State) (ew : EventWord) (rest : List EventWord), s.input = ew :: rest →
      step s = execEvents (events ew) { s with input := rest })

/-- Words written out by hand from 95_test_vectors.md section 5 and from the table's patterns decode to the
instructions they stand for. The model's own in it: the form of the FUNC and OP codes and the rejections by name
of a code of `TICKS` above 180 and of wire bytes that fit no pattern of R79 (log entry 12); state code 6 read as
`Idle` (R22, R80: decision D10; log entry 16). -/
def Obligations.WrittenWordsDecode : Prop :=
  (∀ c : Config,
    decode c (.event 0b00000000000) = .ok [.nop] ∧
    decode c (.event 0b00001011010) = .ok [.nop] ∧
    decode c (.event 0b00111111111) = .ok [.rxByte 0xFF] ∧
    decode c (.event 0b01011111111) = .ok [.boundary] ∧
    decode c (.event 0b01111111110) = .ok [.boundary, .rxByte 0xFE] ∧
    decode c (.event 0b11111111111) = .ok [.reset] ∧
    decode c (.clampOperand 0b11001000) = .ok [.clamp 200] ∧
    decode c (.ticksOperands 0b1110110100) = .ok [.ticks .claw 180] ∧
    decode c (.ticksOperands 0b1110110101) = .error .ticksAngleAbove180 ∧
    decode c (.regvalOperands 0b0111001000) = .ok [.regval .shoulder 200] ∧
    decode c (.map4Operands 0x5A5A5B00) = .ok [.map4 ⟨90, 90, 91, 0⟩] ∧
    decode c (.applyOperands 0x01020304) = .ok [.apply ⟨1, 2, 3, 4⟩]) ∧
  (∀ c : Config, c.header = 0xFF → c.footer = 0xFE →
    decode c (.byte 0 0xFF) = .ok [.idleHeader] ∧
    decode c (.byte 0 0xFE) = .ok [.idleDiscard 0xFE] ∧
    decode c (.byte 1 0xFF) = .ok [.collect 0 0xFF] ∧
    decode c (.byte 4 0xFE) = .ok [.collect 3 0xFE] ∧
    decode c (.byte 5 0xFE) = .ok [.footerAccept] ∧
    decode c (.byte 5 0xFF) = .ok [.footerReject 0xFF] ∧
    decode c (.byte 6 0xFF) = .ok [.idleHeader] ∧
    decode c (.wire [0xFF, 0x5A, 0x5A, 0x5A, 0x00, 0xFE]) = .ok [.frame ⟨90, 90, 90, 0⟩] ∧
    decode c (.wire [0xFF, 10, 20, 30, 40, 0x7F]) = .ok [.badFrame ⟨10, 20, 30, 40⟩ 0x7F] ∧
    decode c (.wire [0x00, 0xFE]) = .ok [.garbage [0x00, 0xFE]] ∧
    decode c (.wire [0x00, 0xFF]) = .error .wireFitsNoPattern)

/-- The clock step runs the decoded instructions: when the next event word decodes to one instruction, the
step is `exec` of it on the state that has consumed the word; when it decodes to two, the second runs after
the first; when nothing is presented, the step is a `NOP` (the model's choice, log entry 1). -/
def Obligations.StepRunsTheDecodedInstruction : Prop :=
  (∀ (s : State) (ew : EventWord) (rest : List EventWord) (i : Instr),
      s.input = ew :: rest → decode s.cfg (.event ew) = .ok [i] →
      step s = exec i { s with input := rest }) ∧
  (∀ (s : State) (ew : EventWord) (rest : List EventWord) (i j : Instr),
      s.input = ew :: rest → decode s.cfg (.event ew) = .ok [i, j] →
      step s = andThen (exec i { s with input := rest }) (fun t => exec j t)) ∧
  (∀ s : State, s.input = [] → step s = exec .nop s)

/-- What a table word decodes to and what runs once it is placed (the model's conventions, log entries 1, 12 and
13). A 16-bit word: the next step is `exec` of its event, or of its two events in order, the first of which is
what the word decodes to. An 8-bit word: the next step is `exec` of its byte class. A 48-bit word, the byte
received first leftmost (R70): a frame pattern decodes to its pseudo-instruction, and the next six steps come to
`exec` of what the word decodes to. No other length decodes. -/
def Obligations.PlacedTableWordRunsNext : Prop :=
  (∀ (s : State) (w : Nat) (e : Event),
      w < 2048 → events (BitVec.ofNat 11 w) = [e] →
      decodeTableWord 16 w = some e.instr ∧ step (s.withFetchWord 16 w) = exec e.instr s) ∧
  (∀ (s : State) (w : Nat) (e f : Event),
      w < 2048 → events (BitVec.ofNat 11 w) = [e, f] →
      decodeTableWord 16 w = some e.instr ∧
      step (s.withFetchWord 16 w) = andThen (exec e.instr s) (fun t => exec f.instr t)) ∧
  (∀ (s : State) (w : Nat),
      w < 256 → s.cfg.header = 0xFF → s.cfg.footer = 0xFE →
      ∃ i, decodeTableWord 8 w = some i ∧
        step (s.withFetchWord 8 w) =
          exec i { s with fstate := tableState (BitVec.ofNat 8 w) }) ∧
  (∀ (t : Angles) (g : Byte),
      decodeTableWord 48
          ((0xFF : Byte) ++ t.base ++ t.shoulder ++ t.elbow ++ t.claw ++ g).toNat
        = some (if g = 0xFE then .frame t else .badFrame t g)) ∧
  (∀ (s : State) (w : Nat) (i : Instr),
      s.cfg.header = 0xFF → s.cfg.footer = 0xFE → decodeTableWord 48 w = some i →
      ∃ t u : State,
        runSteps 6 (s.withFetchWord 48 w) = .next t ∧
        exec i { s with fstate := .idle } = .next u ∧
        t = { u with out := t.out } ∧
        (observe 6 (s.withFetchWord 48 w)).flatMap Observation.emitted = emissionsOf u.out) ∧
  (∀ nbits w : Nat, nbits ≠ 8 → nbits ≠ 16 → nbits ≠ 48 → decodeTableWord nbits w = none)

/-- R108: of the 6 x 256 pairs of state and byte, the counts of each byte class, for every admitted pair of
sentinels; so the classes of R71 are complete and disjoint (R108 marks it as derived from R100). -/
def Obligations.ByteClassCounts : Prop :=
  ∀ c : Config,
    (allBytes.filter (fun b => decide (byteClass c .idle b = .idleHeader))).length = 1 ∧
    (allBytes.filter (fun b => decide (byteClass c .idle b = .idleDiscard b))).length = 255 ∧
    (∀ n : Fin 4,
      (allBytes.filter (fun b => decide (byteClass c (.collecting n) b = .collect n b))).length = 256) ∧
    (allBytes.filter (fun b => decide (byteClass c .awaitFooter b = .footerAccept))).length = 1 ∧
    (allBytes.filter (fun b => decide (byteClass c .awaitFooter b = .footerReject b))).length = 255

/-! ### The frame decoder -/

/-- R162 with the table of R100: what `RXBYTE` does in each state with each byte, everything else
unchanged. -/
def Obligations.RxByteFollowsTransitionTable : Prop :=
  ∀ (s : State) (b : Byte),
    exec (.rxByte b) s =
      .next
        (match s.fstate with
        | .idle =>
          if b = s.cfg.header then { s with fstate := .collecting 0, out := [] }
          else { s with out := [] }
        | .collecting 0 =>
          { s with fstate := .collecting 1, payload := { s.payload with base := b }, out := [] }
        | .collecting 1 =>
          { s with fstate := .collecting 2, payload := { s.payload with shoulder := b }, out := [] }
        | .collecting 2 =>
          { s with fstate := .collecting 3, payload := { s.payload with elbow := b }, out := [] }
        | .collecting 3 =>
          { s with fstate := .awaitFooter, payload := { s.payload with claw := b }, out := [] }
        | .awaitFooter =>
          if b = s.cfg.footer then
            { s with
              fstate := .idle
              cmd := s.payload
              shadow := map4Of s.cfg s.payload
              syncPending := true
              out := [.frameReady s.payload] }
          else { s with fstate := .idle, out := [] })

/-- R71, R162: delivering a byte is exactly the operation its byte class names. -/
def Obligations.RxByteRunsItsByteClass : Prop :=
  ∀ (s : State) (b : Byte), exec (.rxByte b) s = exec (byteClass s.cfg s.fstate b) s

/-- R101: `IDLE_HEADER`, when it is selected and what it does there. -/
def Obligations.IdleHeaderOpensFrame : Prop :=
  (∀ (c : Config) (f : FState) (b : Byte),
      byteClass c f b = .idleHeader ↔ f = .idle ∧ b = c.header) ∧
  (∀ s : State, s.fstate = .idle →
      exec .idleHeader s = .next { s with fstate := .collecting 0, out := [] })

/-- R102: `IDLE_DISCARD`, when it is selected (a `FOOTER` among the bytes it takes), that it writes nothing, and
that any number of such bytes in a row leaves the state and emits nothing. -/
def Obligations.IdleDiscardWritesNothing : Prop :=
  (∀ (c : Config) (f : FState) (b : Byte),
      byteClass c f b = .idleDiscard b ↔ f = .idle ∧ b ≠ c.header) ∧
  (∀ c : Config, byteClass c .idle c.footer = .idleDiscard c.footer) ∧
  (∀ (s : State) (b : Byte), s.fstate = .idle → b ≠ s.cfg.header →
      exec (.idleDiscard b) s = .next { s with out := [] }) ∧
  (∀ (s : State) (bytes : List Byte), s.fstate = .idle → (∀ b ∈ bytes, b ≠ s.cfg.header) →
      runEvents (bytes.map Event.rxByte) s = (s, []))

/-- R103: `COLLECT`, when it is selected, the one position it stores to, and the state it goes to. -/
def Obligations.CollectStoresOnePosition : Prop :=
  (∀ (c : Config) (f : FState) (n : Fin 4) (b : Byte),
      byteClass c f b = .collect n b ↔ f = .collecting n) ∧
  (∀ (s : State) (n : Fin 4) (b : Byte), s.fstate = .collecting n → ∃ p f,
      exec (.collect n b) s = .next { s with payload := p, fstate := f, out := [] } ∧
      quadGet p (positionChannel n) = b ∧
      (∀ k : Fin 4, k ≠ n → quadGet p (positionChannel k) = quadGet s.payload (positionChannel k)) ∧
      (n.val + 1 = 4 → f = .awaitFooter) ∧
      (∀ h : n.val + 1 < 4, f = .collecting ⟨n.val + 1, h⟩))

/-- R104, R143, R162: `FOOTER_ACCEPT`, when it is selected; it emits the payload, and in the same step `APPLY`
stores it in `cmd` and stages its duty values. -/
def Obligations.FooterAcceptEmitsAndApplies : Prop :=
  (∀ (c : Config) (f : FState) (b : Byte),
      byteClass c f b = .footerAccept ↔ f = .awaitFooter ∧ b = c.footer) ∧
  (∀ s : State, s.fstate = .awaitFooter →
      exec .footerAccept s =
        .next { s with
          fstate := .idle
          cmd := s.payload
          shadow := map4Of s.cfg s.payload
          syncPending := true
          out := [.frameReady s.payload] })

/-- R105: `FOOTER_REJECT`, when it is selected (a `HEADER` among the bytes it takes) and that it only returns to
`Idle`. -/
def Obligations.FooterRejectOnlyReturnsToIdle : Prop :=
  (∀ (c : Config) (f : FState) (b : Byte),
      byteClass c f b = .footerReject b ↔ f = .awaitFooter ∧ b ≠ c.footer) ∧
  (∀ c : Config, byteClass c .awaitFooter c.header = .footerReject c.header) ∧
  (∀ (s : State) (b : Byte), s.fstate = .awaitFooter → b ≠ s.cfg.footer →
      exec (.footerReject b) s = .next { s with fstate := .idle, out := [] })

/-- R106: a byte is compared with `HEADER` only in `Idle` and with `FOOTER` only in `AwaitFooter`, and in
`Collecting(n)` the next state does not depend on the byte. -/
def Obligations.SentinelsAreDataInPayload : Prop :=
  (∀ (c d : Config) (f : FState) (p : Quad Byte) (b : Byte),
      f ≠ .idle → c.footer = d.footer → decodeByte c f p b = decodeByte d f p b) ∧
  (∀ (c d : Config) (f : FState) (p : Quad Byte) (b : Byte),
      f ≠ .awaitFooter → c.header = d.header → decodeByte c f p b = decodeByte d f p b) ∧
  (∀ (c d : Config) (n : Fin 4) (p q : Quad Byte) (a b : Byte),
      (decodeByte c (.collecting n) p a).1 = (decodeByte d (.collecting n) q b).1)

/-- R107: every byte that does not complete a valid frame leaves `cmd`, `shadow`, `sync_pending` and `live` as
they were and emits nothing, and a malformed frame's last byte leads to `Idle`; a byte that completes one applies
the frame whole. -/
def Obligations.UnacceptedByteTouchesOnlyDecoder : Prop :=
  (∀ (s : State) (b : Byte), ¬ (s.fstate = .awaitFooter ∧ b = s.cfg.footer) →
      ∃ f p, exec (.rxByte b) s = .next { s with fstate := f, payload := p, out := [] } ∧
        (s.fstate = .awaitFooter → f = .idle)) ∧
  (∀ (s : State) (b : Byte), s.fstate = .awaitFooter → b = s.cfg.footer →
      exec (.rxByte b) s =
        .next { s with
          fstate := .idle
          cmd := s.payload
          shadow := map4Of s.cfg s.payload
          syncPending := true
          out := [.frameReady s.payload] })

/-- R21: `fstate` moves only on a byte or a reset, and from `AwaitFooter` only to `Idle`. -/
def Obligations.DecoderMovesOnlyOnByteOrReset : Prop :=
  ∀ s t : State, step s = .next t →
    (t.fstate ≠ s.fstate →
      wordValid (fetchWord s).1 = true ∨ wordRst (fetchWord s).1 = true) ∧
    (s.fstate = .awaitFooter → t.fstate ≠ s.fstate → t.fstate = .idle) ∧
    (s.fstate = .awaitFooter → wordValid (fetchWord s).1 = true → t.fstate = .idle)

/-- R28: the pulse `frame_ready` after a clock step, and `angles_out` with it (that the pulse is in the same step
as the footer is the spec's choice, D13; log entry 19). -/
def Obligations.FrameReadyExactlyOnAcceptedFooter : Prop :=
  ∀ s t : State, step s = .next t →
    (frameReady t = true ↔
      wordRst (fetchWord s).1 = false ∧ wordValid (fetchWord s).1 = true ∧
      wordData (fetchWord s).1 = s.cfg.footer ∧ s.fstate = .awaitFooter) ∧
    (frameReady t = true → anglesOut t = some s.payload)

/-- R109: from `Idle`, a `HEADER` and five further bytes, whatever they are, end in `Idle` at the sixth byte and
not before. -/
def Obligations.FramePathIsSixBytes : Prop :=
  ∀ (s : State) (bytes : List Byte), s.fstate = .idle → bytes.length = 5 →
    (∀ k < 5, (runBytes (s.cfg.header :: bytes.take k) s).1.fstate ≠ .idle) ∧
    (runBytes (s.cfg.header :: bytes) s).1.fstate = .idle

/-- R109: over any trace, from any state, there is at most one emission per six bytes, the first five of
which may have come before the trace. -/
def Obligations.AtMostOneEmissionPerSixBytes : Prop :=
  ∀ (es : List Event) (s : State),
    6 * (runEvents es s).2.length ≤ (bytesOf es).length + 5

/-- R110: a stalled `Collecting(n)` takes the next `4 - n` bytes as payload positions `n` to 3, whatever they
are, and nothing else changes. -/
def Obligations.StalledFrameSwallowsBytes : Prop :=
  ∀ (s : State) (n : Fin 4) (bytes : List Byte),
    s.fstate = .collecting n → bytes.length = 4 - n.val →
    ∃ p : Quad Byte,
      runBytes bytes s = ({ s with fstate := .awaitFooter, payload := p }, []) ∧
      (∀ k : Fin 4, k < n → quadGet p (positionChannel k) = quadGet s.payload (positionChannel k)) ∧
      (∀ k : Fin 4, n ≤ k → bytes[k.val - n.val]? = some (quadGet p (positionChannel k)))

/-- R206: from any state, five or more bytes that are neither `HEADER` nor `FOOTER` leave the decoder in `Idle`
with nothing emitted. -/
def Obligations.FiveNeutralBytesReachIdle : Prop :=
  ∀ (s : State) (bytes : List Byte), 5 ≤ bytes.length →
    (∀ b ∈ bytes, b ≠ s.cfg.header ∧ b ≠ s.cfg.footer) →
    (runBytes bytes s).1.fstate = .idle ∧ (runBytes bytes s).2 = []

/-- R35, R23: no rule reads a payload register before `COLLECT` has written it in the same frame: from `Idle`,
the content of `payload` can change no emission and no other field, over any trace. -/
def Obligations.StalePayloadIsNeverRead : Prop :=
  ∀ (es : List Event) (s : State) (p : Quad Byte), s.fstate = .idle →
    ∃ q : Quad Byte,
      runEvents es { s with payload := p } =
        ({ (runEvents es s).1 with payload := q }, (runEvents es s).2)

/-- R35, R23, said of one step: two states that are equal but for payload positions not yet written in the frame in
progress emit the same on every event and are so related after it; every clock step keeps the relation, with the
same outputs; in `Idle` every payload is so related to every other. The payload after a `RESET` is the model's
free value, the same for both (log entry 4). -/
def Obligations.StepKeepsStaleRelation : Prop :=
  (∀ (e : Event) (s t : State), SameButStale s t →
      (stepEvent e s).2 = (stepEvent e t).2 ∧ SameButStale (stepEvent e s).1 (stepEvent e t).1) ∧
  (∀ s t s' : State, SameButStale s t → step s = .next s' →
      ∃ t' : State, step t = .next t' ∧ SameButStale s' t' ∧ observation s' = observation t') ∧
  (∀ (s : State) (p : Quad Byte), s.fstate = .idle → SameButStale s { s with payload := p })

/-- R3, R63: the decoder does not read `cmd`, `shadow`, `sync_pending` or `live`: two states that agree on the
decoder's registers emit the same tuples over any trace and agree on those registers after it. -/
def Obligations.DecoderIgnoresLaterStages : Prop :=
  ∀ (es : List Event) (s t : State),
    s.cfg = t.cfg → s.fstate = t.fstate → s.payload = t.payload → s.freeCount = t.freeCount →
    (runEvents es s).2 = (runEvents es t).2 ∧
    (runEvents es s).1.fstate = (runEvents es t).1.fstate ∧
    (runEvents es s).1.payload = (runEvents es t).1.payload

/-! ### Pseudo-instructions -/

/-- R79: each pseudo-instruction is the run of its expansion, in every state (that it runs as one instruction is
the model's choice, log entry 11). -/
def Obligations.PseudoInstructionsAreTheirExpansions : Prop :=
  ∀ (s : State) (b sh e cl g : Byte) (bytes : List Byte),
    exec (.frame ⟨b, sh, e, cl⟩) s =
      .next (emittingAll (runEvents
        [.rxByte s.cfg.header, .rxByte b, .rxByte sh, .rxByte e, .rxByte cl,
          .rxByte s.cfg.footer] s)) ∧
    exec (.badFrame ⟨b, sh, e, cl⟩ g) s =
      .next (emittingAll (runEvents
        [.rxByte s.cfg.header, .rxByte b, .rxByte sh, .rxByte e, .rxByte cl, .rxByte g] s)) ∧
    exec (.garbage bytes) s = .next (emittingAll (runEvents (bytes.map Event.rxByte) s))

/-- R109 ("Round-trip framing"), R169: a frame from `Idle` emits its tuple once, applies it, and ends in `Idle`;
for all byte values. -/
def Obligations.FrameFromIdleIsApplied : Prop :=
  ∀ (s : State) (t : Angles), s.fstate = .idle →
    exec (.frame t) s =
      .next { s with
        payload := t
        cmd := t
        shadow := map4Of s.cfg t
        syncPending := true
        out := [.frameReady t] }

/-- R109 ("Mid-frame corruption recovers"), R105: a frame with a wrong footer from `Idle` changes nothing but
`payload`, emits nothing and ends in `Idle`. -/
def Obligations.BadFrameFromIdleIsDropped : Prop :=
  ∀ (s : State) (t : Angles) (g : Byte), s.fstate = .idle → g ≠ s.cfg.footer →
    exec (.badFrame t g) s = .next { s with payload := t, out := [] }

/-- R102: bytes other than `HEADER`, received in `Idle`, change nothing, for any length of garbage. -/
def Obligations.GarbageFromIdleIsDiscarded : Prop :=
  ∀ (s : State) (bytes : List Byte), s.fstate = .idle → (∀ g ∈ bytes, g ≠ s.cfg.header) →
    exec (.garbage bytes) s = .next { s with out := [] }

/-! ### The duty mapper -/

/-- R120: `CLAMP` is the smaller of the angle and 180, and is idempotent (that the result of a mapper function
stands in `out` is the model's choice, log entry 5). -/
def Obligations.ClampIsMinimumWith180 : Prop :=
  (∀ (s : State) (a : Byte),
      exec (.clamp a) s = .next { s with out := [.clamped (min a.toNat 180)] }) ∧
  (∀ n : Nat, clampAngle (clampAngle n) = clampAngle n)

/-- R121: `TICKS` is the linear map of a clamped angle, and its corner cases (the result in `out`: log entry
5). -/
def Obligations.TicksIsLinearMap : Prop :=
  (∀ (s : State) (ch : Channel) (a : Byte), a.toNat ≤ 180 →
      exec (.ticks ch a) s =
        .next { s with
          out := [.ticks (quadGet s.cfg.minTicks ch
            + a.toNat * (quadGet s.cfg.maxTicks ch - quadGet s.cfg.minTicks ch) / 180)] }) ∧
  (∀ (c : Config) (ch : Channel),
      ticksOf c ch 0 = quadGet c.minTicks ch ∧
      ticksOf c ch 180 = quadGet c.maxTicks ch ∧
      ticksOf c ch 90
        = quadGet c.minTicks ch + (quadGet c.maxTicks ch - quadGet c.minTicks ch) / 2 ∧
      (quadGet c.maxTicks ch = quadGet c.minTicks ch →
        ∀ a, ticksOf c ch a = quadGet c.minTicks ch) ∧
      (quadGet c.maxTicks ch - quadGet c.minTicks ch < 180 →
        ∃ a < 180, ticksOf c ch a = ticksOf c ch (a + 1)))

/-- R122: `REGVAL` is the complement of the ticks of the clamped angle, and its corner cases (the result in
`out`: log entry 5). -/
def Obligations.RegvalIsComplement : Prop :=
  (∀ (s : State) (ch : Channel) (a : Byte),
      exec (.regval ch a) s =
        .next { s with
          out := [.regval (s.cfg.periodTicks
            - (quadGet s.cfg.minTicks ch
              + min a.toNat 180 * (quadGet s.cfg.maxTicks ch - quadGet s.cfg.minTicks ch) / 180))] }) ∧
  (∀ (c : Config) (ch : Channel),
      regvalOf c ch 0 = c.periodTicks - quadGet c.minTicks ch ∧
      (∀ a : Byte, 180 ≤ a.toNat → regvalOf c ch a = c.periodTicks - quadGet c.maxTicks ch) ∧
      regvalOf c ch 180 = regvalOf c ch 200 ∧ regvalOf c ch 200 = regvalOf c ch 255)

/-- R128: `MAP4` is `REGVAL` on each lane, a lane reading its own angle alone (the result in `out`: log entry
5). -/
def Obligations.MapFourIsFourLanes : Prop :=
  (∀ (s : State) (b sh e cl : Byte),
      exec (.map4 ⟨b, sh, e, cl⟩) s =
        .next { s with
          out := [.duties ⟨regvalOf s.cfg .base b, regvalOf s.cfg .shoulder sh,
            regvalOf s.cfg .elbow e, regvalOf s.cfg .claw cl⟩] }) ∧
  (∀ (c : Config) (t u : Angles) (ch : Channel), quadGet t ch = quadGet u ch →
      quadGet (map4Of c t) ch = quadGet (map4Of c u) ch)

/-- R125: the range of ticks and register values; every register value fits `TICK_WIDTH` bits (R125 marks it as
derived from R120 to R122 and R9). -/
def Obligations.MapperStaysInRange : Prop :=
  ∀ (c : Config) (ch : Channel) (a : Byte),
    quadGet c.minTicks ch ≤ ticksOf c ch (clampAngle a.toNat) ∧
    ticksOf c ch (clampAngle a.toNat) ≤ quadGet c.maxTicks ch ∧
    c.periodTicks - quadGet c.maxTicks ch ≤ regvalOf c ch a ∧
    regvalOf c ch a ≤ c.periodTicks - quadGet c.minTicks ch ∧
    regvalOf c ch a ≤ c.periodTicks ∧
    regvalOf c ch a < 2 ^ c.tickWidth

/-- R126: a larger angle gives no fewer ticks and no larger register value; constant from 180 upward (R126 marks
it as derived from R120 to R122 and R9(b)). -/
def Obligations.MapperIsMonotone : Prop :=
  ∀ (c : Config) (ch : Channel),
    (∀ a b : Nat, a ≤ b → b ≤ 180 → ticksOf c ch a ≤ ticksOf c ch b) ∧
    (∀ a b : Byte, a.toNat ≤ b.toNat → regvalOf c ch b ≤ regvalOf c ch a) ∧
    (∀ a : Byte, 180 ≤ a.toNat → regvalOf c ch a = regvalOf c ch 180)

/-- R150: in a state that meets the invariants each channel is high for the ticks of one tuple's clamped
angle. -/
def Obligations.HighTimeIsTicksOfOneTuple : Prop :=
  ∀ s : State, StateInv s →
    ∃ t : Angles, ∀ ch : Channel,
      highTicks s.cfg (quadGet (dutyOut s) ch)
        = ticksOf s.cfg ch (clampAngle (quadGet t ch).toNat)

/-! ### The synchronizer -/

/-- R140: `STAGE` writes one shadow register; a second one of the same channel overwrites it; without a trigger
nothing of it reaches the outputs. -/
def Obligations.StageWritesOneShadow : Prop :=
  ∀ (s : State) (ch : Channel) (v w : Nat),
    v ≤ s.cfg.periodTicks → w ≤ s.cfg.periodTicks → ∃ q r : Quad Nat,
    exec (.stage ch v) s = .next { s with shadow := q, out := [] } ∧
    quadGet q ch = v ∧
    (∀ k : Channel, k ≠ ch → quadGet q k = quadGet s.shadow k) ∧
    exec (.stage ch w) { s with shadow := q, out := [] } = .next { s with shadow := r, out := [] } ∧
    exec (.stage ch w) s = .next { s with shadow := r, out := [] } ∧
    (s.syncPending = false →
      exec .boundary { s with shadow := q, out := [] } = .next { s with shadow := q, out := [] })

/-- R141: `COMMIT` sets the trigger and nothing else; a second one leaves it set; the outputs change at the next
`BOUNDARY`. -/
def Obligations.CommitSetsTheTrigger : Prop :=
  ∀ s : State,
    exec .commit s = .next { s with syncPending := true, out := [] } ∧
    exec .commit { s with syncPending := true, out := [] }
      = .next { s with syncPending := true, out := [] } ∧
    andThen (exec .commit s) (fun t => exec .boundary t)
      = .next { s with live := s.shadow, syncPending := false, out := [] }

/-- R143: `APPLY` is `cmd <- t; shadow <- MAP4(t); sync_pending <- 1`, which is what the write of `cmd`, the four
stagings and the trigger come to in that order (that it is one step is the spec's choice, D6; log entry 7). -/
def Obligations.ApplyStagesTheWholeTuple : Prop :=
  ∀ (s : State) (t : Angles),
    exec (.apply t) s =
      .next { s with cmd := t, shadow := map4Of s.cfg t, syncPending := true, out := [] } ∧
    exec (.apply t) s =
      andThen (exec (.stage .base (regvalOf s.cfg .base t.base)) { s with cmd := t })
        (fun a => andThen (exec (.stage .shoulder (regvalOf s.cfg .shoulder t.shoulder)) a)
          (fun b => andThen (exec (.stage .elbow (regvalOf s.cfg .elbow t.elbow)) b)
            (fun c => andThen (exec (.stage .claw (regvalOf s.cfg .claw t.claw)) c)
              (fun d => exec .commit d))))

/-- R142, R163: `BOUNDARY` transfers all four channels when a trigger is pending, clears it, and a second one
changes nothing (that all four are copied is the spec's choice, D7; log entry 19). -/
def Obligations.BoundaryTransfersWhenPending : Prop :=
  ∀ s : State,
    exec .boundary s =
      .next { s with
        live := if s.syncPending then s.shadow else s.live
        syncPending := false
        out := [] } ∧
    andThen (exec .boundary s) (fun t => exec .boundary t) = exec .boundary s

/-- R144: `live` changes only in a `BOUNDARY` with `sync_pending = 1` or in a `RESET` (R144 marks it as derived
from R140 to R143 and R160). -/
def Obligations.LiveChangesOnlyAtBoundaryOrReset : Prop :=
  ∀ (i : Instr) (s t : State), exec i s = .next t → dutyOut t ≠ dutyOut s →
    (i = .boundary ∧ s.syncPending = true) ∨ i = .reset

/-- R24, R57: `cmd` is replaced only whole: by the default at a reset, or by the payload of the frame the same
step accepts and emits. -/
def Obligations.CommandedPositionReplacedWhole : Prop :=
  ∀ s t : State, step s = .next t →
    t.cmd = s.cmd ∨ (wordRst (fetchWord s).1 = true ∧ t.cmd = Config.defaultPos) ∨
    (t.cmd = s.payload ∧ emissionsOf t.out = [s.payload])

/-- R61, R146, R147: over a trace with no boundary and no reset, `live` stays, `cmd` is the last emitted tuple, and
the boundary that follows shows the last emitted tuple alone. -/
def Obligations.LastEmissionReachesOutputs : Prop :=
  ∀ (es : List Event) (s : State), (∀ e ∈ es, e ≠ .reset ∧ e ≠ .boundary) →
    (runEvents es s).1.live = s.live ∧
    (runEvents es s).1.cmd = (runEvents es s).2.getLastD s.cmd ∧
    (runEvents (es ++ [.boundary]) s).1.live =
      (match (runEvents es s).2.getLast? with
      | some t => map4Of s.cfg t
      | none => if s.syncPending then s.shadow else s.live)

/-- R77, R188: a footer that completes a frame at the same clock edge as a boundary: the boundary transfers what
was pending before, and the new frame waits for the next one (the order is the spec's choice, D5; log entry
15). -/
def Obligations.CoincidentBoundaryComesFirst : Prop :=
  ∀ (s : State) (rest : List EventWord),
    s.input = eventWord false true true s.cfg.footer :: rest → s.fstate = .awaitFooter →
    step s =
      .next { s with
        input := rest
        fstate := .idle
        live := if s.syncPending then s.shadow else s.live
        cmd := s.payload
        shadow := map4Of s.cfg s.payload
        syncPending := true
        out := [.frameReady s.payload] }

/-- R149: were a boundary to fall between the stagings of a second tuple while the first one's trigger is pending,
the outputs would show a mixture; with `APPLY` as one instruction they show the second tuple. -/
def Obligations.InterleavedStagingWouldMix : Prop :=
  ∀ (s : State) (t u : Angles), s.syncPending = true → s.shadow = map4Of s.cfg t →
    (∃ r : State,
      andThen (exec (.stage .base (regvalOf s.cfg .base u.base)) s)
        (fun a => andThen (exec (.stage .shoulder (regvalOf s.cfg .shoulder u.shoulder)) a)
          (fun b => exec .boundary b)) = .next r ∧
      r.live = ⟨regvalOf s.cfg .base u.base, regvalOf s.cfg .shoulder u.shoulder,
        regvalOf s.cfg .elbow t.elbow, regvalOf s.cfg .claw t.claw⟩) ∧
    (∃ r : State,
      andThen (exec (.apply u) s) (fun a => exec .boundary a) = .next r ∧
      r.live = map4Of s.cfg u)

/-! ### The core step, reset and configuration -/

/-- R164: `NOP` changes no state and emits nothing; so does a clock step whose word has `rst = 0`,
`period_tick = 0` and `rx_valid = 0`, whatever its byte. -/
def Obligations.NopChangesNothing : Prop :=
  (∀ s : State, exec .nop s = .next { s with out := [] }) ∧
  (∀ (s : State) (d : Byte) (rest : List EventWord),
      s.input = eventWord false false false d :: rest →
      step s = .next { s with input := rest, out := [] })

/-- R161, R200, R35: `RESET` sets every field to its reset value, whatever it was, and emits nothing. `payload`
takes some value `p`, which R35 leaves unspecified; `n` counts the model's draws (log entry 4). That `live` and
`sync_pending` are loaded directly is the spec's choice (D8; log entry 8). -/
def Obligations.ResetSetsEveryField : Prop :=
  ∀ s : State, ∃ (p : Quad Byte) (n : Nat),
    exec .reset s =
      .next { s with
        fstate := .idle
        payload := p
        cmd := ⟨90, 90, 90, 0⟩
        shadow := ⟨regvalOf s.cfg .base 90, regvalOf s.cfg .shoulder 90, regvalOf s.cfg .elbow 90,
          regvalOf s.cfg .claw 0⟩
        syncPending := false
        live := ⟨regvalOf s.cfg .base 90, regvalOf s.cfg .shoulder 90, regvalOf s.cfg .elbow 90,
          regvalOf s.cfg .claw 0⟩
        out := []
        freeCount := n }

/-- R35: the fields of the state after reset that the spec gives a value (`live` and `sync_pending` by the spec's
choice D8; log entry 8). -/
def Obligations.ResetStateHasSpecValues : Prop :=
  State.reset.fstate = .idle ∧
  State.reset.cmd = ⟨90, 90, 90, 0⟩ ∧
  (∀ ch : Channel, quadGet State.reset.shadow ch
    = regvalOf State.reset.cfg ch (quadGet State.reset.cmd ch)) ∧
  State.reset.syncPending = false ∧
  (∀ ch : Channel, quadGet State.reset.live ch
    = regvalOf State.reset.cfg ch (quadGet State.reset.cmd ch)) ∧
  State.reset.live.claw = State.reset.cfg.periodTicks - State.reset.cfg.minTicks.claw

/-- R58: `BOUNDARY` is idempotent; `RESET` is, in every field R35 gives a value; `RXBYTE` is not: two `HEADER`
bytes from `Idle` end in `Collecting(1)` with the second one stored. -/
def Obligations.IdempotencyOfEvents : Prop :=
  (∀ s : State, runEvents [.boundary, .boundary] s = runEvents [.boundary] s) ∧
  (∀ s : State, ∃ (p : Quad Byte) (n : Nat),
      (runEvents [.reset, .reset] s).1
        = { (runEvents [.reset] s).1 with payload := p, freeCount := n }) ∧
  (∀ s : State, s.fstate = .idle →
      (runEvents [.rxByte s.cfg.header, .rxByte s.cfg.header] s).1
        = { s with fstate := .collecting 1, payload := { s.payload with base := s.cfg.header } })

/-- R201 with the source's scenario S8: after a reset the outputs show the default; the frame of the default and
a boundary emit it once and leave every field but `payload` as the reset left it. That the reset loads `live`
directly, with no trigger pending, is the spec's choice (D8; log entry 8). -/
def Obligations.DefaultFrameReproducesBoot : Prop :=
  ∀ s : State,
    (runEvents [.reset] s).1.live = map4Of s.cfg ⟨90, 90, 90, 0⟩ ∧
    runEvents ([.reset] ++ (frameBytes s.cfg ⟨90, 90, 90, 0⟩ s.cfg.footer).map Event.rxByte
        ++ [.boundary]) s
      = ({ (runEvents [.reset] s).1 with payload := ⟨90, 90, 90, 0⟩ }, [⟨90, 90, 90, 0⟩])

/-- R14, R160: `STEP` is total; no instruction and no clock step faults or is refused. -/
def Obligations.EveryStepHasANextState : Prop :=
  (∀ (i : Instr) (s : State), ∃ t : State, exec i s = .next t) ∧
  (∀ s : State, ∃ t : State, step s = .next t)

/-- R9: exactly the configurations that meet (a), (b) and (c) are admitted, unchanged; every other one is refused,
by the name of the first condition it breaks, the channels in their order ((b) and (c) are the spec's own
conditions, D2, D3, D17; log entry 19; the names and their order are the model's, log entry 2). -/
def Obligations.ConfigurationsAdmittedExactly : Prop :=
  ∀ r : RawConfig,
    ((r.header ≠ r.footer ∧
        (∀ ch : Channel, quadGet r.minTicks ch ≤ quadGet r.maxTicks ch ∧
          quadGet r.maxTicks ch ≤ r.periodTicks) ∧
        r.periodTicks < 2 ^ r.tickWidth) ↔
      ∃ c : Config, r.accept = .ok c ∧ c.toRawConfig = r) ∧
    (r.header = r.footer → r.accept = .error .sentinelsEqual) ∧
    (∀ ch : Channel, r.header ≠ r.footer →
      ¬ (quadGet r.minTicks ch ≤ quadGet r.maxTicks ch ∧ quadGet r.maxTicks ch ≤ r.periodTicks) →
      (∀ k : Channel, k.index < ch.index →
        quadGet r.minTicks k ≤ quadGet r.maxTicks k ∧ quadGet r.maxTicks k ≤ r.periodTicks) →
      r.accept = .error (.calibrationOutOfOrder ch)) ∧
    (r.header ≠ r.footer →
      (∀ ch : Channel, quadGet r.minTicks ch ≤ quadGet r.maxTicks ch ∧
        quadGet r.maxTicks ch ≤ r.periodTicks) →
      ¬ r.periodTicks < 2 ^ r.tickWidth → r.accept = .error .periodTooWide) ∧
    (¬ (r.header ≠ r.footer ∧
        (∀ ch : Channel, quadGet r.minTicks ch ≤ quadGet r.maxTicks ch ∧
          quadGet r.maxTicks ch ≤ r.periodTicks) ∧
        r.periodTicks < 2 ^ r.tickWidth) →
      r.accept = .error r.defect)

/-- R30: no instruction and no clock step changes the configuration (that it stands in a field of the state is
the model's choice, log entry 2). -/
def Obligations.ConfigurationNeverChanges : Prop :=
  (∀ (i : Instr) (s t : State), exec i s = .next t → t.cfg = s.cfg) ∧
  (∀ s t : State, step s = .next t → t.cfg = s.cfg)

/-- R181, R182, R183, R185, R188: what each silent error condition does and nothing more, and which of them can
coincide. -/
def Obligations.ErrorConditionsAreSilent : Prop :=
  ∀ (s : State) (b : Byte), ∃ t : State, exec (.rxByte b) s = .next t ∧
    (.framingDesync ∈ errorsOf s b → t = { s with out := [] }) ∧
    (.wrongFooter ∈ errorsOf s b → t = { s with fstate := .idle, out := [] }) ∧
    (∀ ch : Channel, .angleOutOfRange ch ∈ errorsOf s b →
      180 < (quadGet s.payload ch).toNat ∧ quadGet t.cmd ch = quadGet s.payload ch ∧
      quadGet t.shadow ch = regvalOf s.cfg ch 180 ∧ t.out = [.frameReady s.payload] ∧
      .framingDesync ∉ errorsOf s b ∧ .wrongFooter ∉ errorsOf s b) ∧
    ¬ (.framingDesync ∈ errorsOf s b ∧ .wrongFooter ∈ errorsOf s b)

/-- R32: every clock step keeps the invariants, from every state that meets them (R32 marks them as derived). -/
def Obligations.StepKeepsInvariants : Prop :=
  ∀ s t : State, StateInv s → step s = .next t → StateInv t

/-- R32: the state after reset meets the invariants ((I4) and (I5) there, `live` loaded directly with no trigger
pending, by the spec's choice D8; log entry 8). -/
def Obligations.ResetStateMeetsInvariants : Prop :=
  StateInv State.reset

/-- R169: one frame end to end, with any boundaries and steps without input interleaved: it emits exactly once, at
its last byte; then the tuple is staged, and the first boundary after it shows it; boundaries before the last
byte transfer only what was pending before (R169 marks it as derived from R162, R163, R109, R143, R147). -/
def Obligations.FrameEndToEnd : Prop :=
  ∀ (s : State) (t : Angles) (pre post : List Event),
    s.fstate = .idle → (∀ e ∈ pre, e ≠ .reset) →
    bytesOf pre = [s.cfg.header, t.base, t.shoulder, t.elbow, t.claw] →
    (∀ e ∈ post, Quiet e) →
    (runEvents pre s).2 = [] ∧
    (runEvents (pre ++ [.rxByte s.cfg.footer]) s).2 = [t] ∧
    (runEvents (pre ++ [.rxByte s.cfg.footer]) s).1.fstate = .idle ∧
    (runEvents (pre ++ [.rxByte s.cfg.footer]) s).1.cmd = t ∧
    (runEvents (pre ++ [.rxByte s.cfg.footer]) s).1.shadow = map4Of s.cfg t ∧
    (runEvents (pre ++ [.rxByte s.cfg.footer]) s).1.syncPending = true ∧
    ((runEvents pre s).1.live = s.live ∨
      s.syncPending = true ∧ (runEvents pre s).1.live = s.shadow) ∧
    (runEvents (pre ++ [.rxByte s.cfg.footer]) s).1.live = (runEvents pre s).1.live ∧
    (runEvents (pre ++ [.rxByte s.cfg.footer] ++ post) s).2 = [t] ∧
    (runEvents (pre ++ [.rxByte s.cfg.footer] ++ post) s).1.fstate = .idle ∧
    (runEvents (pre ++ [.rxByte s.cfg.footer] ++ post) s).1.cmd = t ∧
    (runEvents (pre ++ [.rxByte s.cfg.footer] ++ post) s).1.shadow = map4Of s.cfg t ∧
    (.boundary ∈ post →
      (runEvents (pre ++ [.rxByte s.cfg.footer] ++ post) s).1.live = map4Of s.cfg t ∧
      (runEvents (pre ++ [.rxByte s.cfg.footer] ++ post) s).1.syncPending = false) ∧
    (.boundary ∉ post →
      (runEvents (pre ++ [.rxByte s.cfg.footer] ++ post) s).1
        = (runEvents (pre ++ [.rxByte s.cfg.footer]) s).1)

/-- R165, R167: the clock steps of any list of event words are the run of the events the words yield: the same
state but for the model's own input and output fields, and the same emissions in the same order. -/
def Obligations.ClockStepsRunTheEvents : Prop :=
  ∀ (ws rest : List EventWord) (s : State), s.input = ws ++ rest →
    ∃ t : State,
      runSteps ws.length s = .next t ∧
      { t with input := s.input, out := s.out } = (runEvents (ws.flatMap events) s).1 ∧
      t.input = rest ∧
      (observe ws.length s).flatMap Observation.emitted = (runEvents (ws.flatMap events) s).2

/-- R79, R165: presenting a pseudo-instruction's bytes at the ports, one a clock step, comes to the
pseudo-instruction itself (whose execution as one instruction is the model's choice, log entry 11). -/
def Obligations.PortWordsRunThePseudoInstruction : Prop :=
  ∀ (s : State) (i : Instr) (rest : List EventWord),
    ((∃ t, i = .frame t) ∨ (∃ t g, i = .badFrame t g) ∨ (∃ bytes, i = .garbage bytes)) →
    s.input = portWords s.cfg i ++ rest →
    ∃ t u : State,
      runSteps (portWords s.cfg i).length s = .next t ∧
      exec i s = .next u ∧
      t = { u with input := rest, out := t.out } ∧
      (observe (portWords s.cfg i).length s).flatMap Observation.emitted = emissionsOf u.out
end

