-- ==== Sys2Proof/Laws/Codec.lean ====
section
/-! SUPPORT. The fields of the operand codes read back what was packed into them
(spec/30_encoding.md R81), and the codes of channels and decoder states name what they encode. -/

namespace Sys2Proof.Laws

@[simp] theorem channel_ofIndex_index (ch : Channel) : Channel.ofIndex ch.index = ch := by
  cases ch <;> decide

@[simp] theorem fstate_ofCode_code (f : FState) : FState.ofCode f.code = f := by
  rcases f with _ | n | _
  · decide
  · revert n
    decide
  · decide

@[simp] theorem operandAngle_pack (ch : Channel) (a : Byte) :
    operandAngle (packChannelAngle ch a) = a := by
  revert a
  cases ch <;> decide

@[simp] theorem operandChannel_pack (ch : Channel) (a : Byte) :
    operandChannel (packChannelAngle ch a) = ch := by
  revert a
  cases ch <;> decide

@[simp] theorem operandAngles_pack (t : Angles) : operandAngles (packAngles t) = t := by
  rcases t with ⟨b, s, e, c⟩
  simp only [operandAngles, packAngles, Quad.mk.injEq]
  refine ⟨?_, ?_, ?_, ?_⟩ <;> (ext i hi; simp; try grind)

end Sys2Proof.Laws
end

