-- ==== Sys2Proof/Laws/Mapper.lean ====
section
/-! SUPPORT. Facts about the configuration and the mapper's functions that later proofs cite. -/

namespace Sys2Proof.Machine

/-- R9(b), first half. -/
theorem minTicks_le_maxTicks (c : Config) (ch : Channel) :
    quadGet c.minTicks ch ≤ quadGet c.maxTicks ch := by
  obtain ⟨-, hb, hs, he, hc, -⟩ := (RawConfig.isAdmitted_iff _).mp c.ok
  cases ch
  · exact hb.1
  · exact hs.1
  · exact he.1
  · exact hc.1

/-- R9(b), second half. -/
theorem maxTicks_le_periodTicks (c : Config) (ch : Channel) :
    quadGet c.maxTicks ch ≤ c.periodTicks := by
  obtain ⟨-, hb, hs, he, hc, -⟩ := (RawConfig.isAdmitted_iff _).mp c.ok
  cases ch
  · exact hb.2
  · exact hs.2
  · exact he.2
  · exact hc.2

/-- R9(a). -/
theorem header_ne_footer (c : Config) : c.header ≠ c.footer :=
  ((RawConfig.isAdmitted_iff _).mp c.ok).1

/-- R9(c). -/
theorem periodTicks_lt (c : Config) : c.periodTicks < 2 ^ c.tickWidth :=
  ((RawConfig.isAdmitted_iff _).mp c.ok).2.2.2.2.2

theorem clampAngle_le (a : Nat) : clampAngle a ≤ Config.angleMax := Nat.min_le_right _ _

theorem clampAngle_of_le {a : Nat} (h : a ≤ Config.angleMax) : clampAngle a = a := Nat.min_eq_left h

theorem clampAngle_of_ge {a : Nat} (h : Config.angleMax ≤ a) : clampAngle a = Config.angleMax :=
  Nat.min_eq_right h

/-- A lane of `MAP4` is `REGVAL` of that channel (R128). -/
@[simp] theorem quadGet_map4Of (c : Config) (t : Angles) (ch : Channel) :
    quadGet (map4Of c t) ch = regvalOf c ch (quadGet t ch) := by
  cases ch <;> rfl

/-- R8, R10: the open parameters of the reset configuration are drawn from all that R9 allows: every admitted
configuration with the sentinels of R7 is a configuration of some draws, width 0 among them. -/
theorem RawConfig.ofDraws_reaches {r : RawConfig} (h : r.isAdmitted = true) (hh : r.header = 0xFF)
    (hf : r.footer = 0xFE) :
    ∃ lo span periodSlack widthSlack, RawConfig.ofDraws lo span periodSlack widthSlack = r := by
  obtain ⟨-, hb, hs, he, hc, hw⟩ := (RawConfig.isAdmitted_iff r).mp h
  rcases r with ⟨header, footer, ⟨b, s, e, c⟩, ⟨b', s', e', c'⟩, period, width⟩
  simp only at hb hs he hc hw hh hf
  subst hh hf
  have hwidth : RawConfig.bitsFor period ≤ width := by
    unfold RawConfig.bitsFor
    split
    · exact Nat.zero_le _
    · next hp => exact (Nat.log2_lt hp).mpr hw
  refine ⟨⟨b, s, e, c⟩, ⟨b' - b, s' - s, e' - e, c' - c⟩,
    period - max (max b' s') (max e' c'), width - RawConfig.bitsFor period, ?_⟩
  have hp : max (max b' s') (max e' c') + (period - max (max b' s') (max e' c')) = period := by omega
  simp only [RawConfig.ofDraws, Nat.add_sub_cancel' hb.1, Nat.add_sub_cancel' hs.1,
    Nat.add_sub_cancel' he.1, Nat.add_sub_cancel' hc.1, hp, Nat.add_sub_cancel' hwidth]

end Sys2Proof.Machine
end

