-- ==== Sys2Proof/Laws/State.lean ====
section
/-! SUPPORT. What each named update does to each field, once, so that no later proof unfolds it. -/

namespace Sys2Proof.Machine

/-! ### Registers `x[i]` -/

@[simp] theorem quadGet_quadSet_same {α : Type} (q : Quad α) (ch : Channel) (v : α) :
    quadGet (quadSet q ch v) ch = v := by
  cases ch <;> rfl

theorem quadGet_quadSet_other {α : Type} (q : Quad α) {ch k : Channel} (v : α) (h : k ≠ ch) :
    quadGet (quadSet q ch v) k = quadGet q k := by
  cases ch <;> cases k <;> first | rfl | exact absurd rfl h

@[simp] theorem quadSet_quadSet {α : Type} (q : Quad α) (ch : Channel) (v w : α) :
    quadSet (quadSet q ch v) ch w = quadSet q ch w := by
  cases ch <;> rfl

theorem quad_ext {α : Type} {p q : Quad α} (h : ∀ ch, quadGet p ch = quadGet q ch) : p = q := by
  have hb := h .base
  have hs := h .shoulder
  have he := h .elbow
  have hc := h .claw
  cases p
  cases q
  simp only [quadGet] at hb hs he hc
  subst hb hs he hc
  rfl

/-! ### Recording outputs -/

@[simp] theorem silent_fstate (s : State) : (silent s).fstate = s.fstate := rfl
@[simp] theorem silent_payload (s : State) : (silent s).payload = s.payload := rfl
@[simp] theorem silent_cmd (s : State) : (silent s).cmd = s.cmd := rfl
@[simp] theorem silent_shadow (s : State) : (silent s).shadow = s.shadow := rfl
@[simp] theorem silent_syncPending (s : State) : (silent s).syncPending = s.syncPending := rfl
@[simp] theorem silent_live (s : State) : (silent s).live = s.live := rfl
@[simp] theorem silent_cfg (s : State) : (silent s).cfg = s.cfg := rfl
@[simp] theorem silent_input (s : State) : (silent s).input = s.input := rfl
@[simp] theorem silent_out (s : State) : (silent s).out = [] := rfl
@[simp] theorem silent_freeCount (s : State) : (silent s).freeCount = s.freeCount := rfl

@[simp] theorem putOut_fstate (o : Output) (s : State) : (putOut o s).fstate = s.fstate := rfl
@[simp] theorem putOut_payload (o : Output) (s : State) : (putOut o s).payload = s.payload := rfl
@[simp] theorem putOut_cmd (o : Output) (s : State) : (putOut o s).cmd = s.cmd := rfl
@[simp] theorem putOut_shadow (o : Output) (s : State) : (putOut o s).shadow = s.shadow := rfl
@[simp] theorem putOut_syncPending (o : Output) (s : State) :
    (putOut o s).syncPending = s.syncPending := rfl
@[simp] theorem putOut_live (o : Output) (s : State) : (putOut o s).live = s.live := rfl
@[simp] theorem putOut_cfg (o : Output) (s : State) : (putOut o s).cfg = s.cfg := rfl
@[simp] theorem putOut_input (o : Output) (s : State) : (putOut o s).input = s.input := rfl
@[simp] theorem putOut_out (o : Output) (s : State) : (putOut o s).out = [o] := rfl
@[simp] theorem putOut_freeCount (o : Output) (s : State) :
    (putOut o s).freeCount = s.freeCount := rfl

@[simp] theorem emitting_fstate (r : State × Option Angles) : (emitting r).fstate = r.1.fstate := rfl
@[simp] theorem emitting_payload (r : State × Option Angles) :
    (emitting r).payload = r.1.payload := rfl
@[simp] theorem emitting_cmd (r : State × Option Angles) : (emitting r).cmd = r.1.cmd := rfl
@[simp] theorem emitting_shadow (r : State × Option Angles) : (emitting r).shadow = r.1.shadow := rfl
@[simp] theorem emitting_syncPending (r : State × Option Angles) :
    (emitting r).syncPending = r.1.syncPending := rfl
@[simp] theorem emitting_live (r : State × Option Angles) : (emitting r).live = r.1.live := rfl
@[simp] theorem emitting_cfg (r : State × Option Angles) : (emitting r).cfg = r.1.cfg := rfl
@[simp] theorem emitting_input (r : State × Option Angles) : (emitting r).input = r.1.input := rfl
@[simp] theorem emitting_freeCount (r : State × Option Angles) :
    (emitting r).freeCount = r.1.freeCount := rfl

@[simp] theorem emissionsOf_frameReady (ts : List Angles) :
    emissionsOf (ts.map Output.frameReady) = ts := by
  induction ts with
  | nil => rfl
  | cons t ts ih => simp [emissionsOf, ih]

@[simp] theorem emissionsOf_emitting (r : State × Option Angles) :
    emissionsOf (emitting r).out = r.2.toList := emissionsOf_frameReady _

@[simp] theorem emissionsOf_emittingAll (r : State × List Angles) :
    emissionsOf (emittingAll r).out = r.2 := emissionsOf_frameReady _

@[simp] theorem emissionsOf_silent (s : State) : emissionsOf (silent s).out = [] := rfl

/-! ### Flags -/

@[simp] theorem setSyncPending_syncPending (s : State) : (setSyncPending s).syncPending = true := rfl
@[simp] theorem clearSyncPending_syncPending (s : State) :
    (clearSyncPending s).syncPending = false := rfl

/-! ### `STAGE` and `COMMIT` -/

@[simp] theorem stage_fstate (ch : Channel) (v : Nat) (s : State) :
    (stage ch v s).fstate = s.fstate := rfl
@[simp] theorem stage_payload (ch : Channel) (v : Nat) (s : State) :
    (stage ch v s).payload = s.payload := rfl
@[simp] theorem stage_cmd (ch : Channel) (v : Nat) (s : State) : (stage ch v s).cmd = s.cmd := rfl
@[simp] theorem stage_shadow (ch : Channel) (v : Nat) (s : State) :
    (stage ch v s).shadow = quadSet s.shadow ch v := rfl
@[simp] theorem stage_syncPending (ch : Channel) (v : Nat) (s : State) :
    (stage ch v s).syncPending = s.syncPending := rfl
@[simp] theorem stage_live (ch : Channel) (v : Nat) (s : State) : (stage ch v s).live = s.live := rfl
@[simp] theorem stage_cfg (ch : Channel) (v : Nat) (s : State) : (stage ch v s).cfg = s.cfg := rfl

@[simp] theorem commit_fstate (s : State) : (commit s).fstate = s.fstate := rfl
@[simp] theorem commit_payload (s : State) : (commit s).payload = s.payload := rfl
@[simp] theorem commit_cmd (s : State) : (commit s).cmd = s.cmd := rfl
@[simp] theorem commit_shadow (s : State) : (commit s).shadow = s.shadow := rfl
@[simp] theorem commit_syncPending (s : State) : (commit s).syncPending = true := rfl
@[simp] theorem commit_live (s : State) : (commit s).live = s.live := rfl
@[simp] theorem commit_cfg (s : State) : (commit s).cfg = s.cfg := rfl

/-! ### `RESET` -/

@[simp] theorem resetCore_fstate (s : State) : (resetCore s).fstate = .idle := rfl
@[simp] theorem resetCore_cmd (s : State) : (resetCore s).cmd = Config.defaultPos := rfl
@[simp] theorem resetCore_shadow (s : State) :
    (resetCore s).shadow = map4Of s.cfg Config.defaultPos := rfl
@[simp] theorem resetCore_syncPending (s : State) : (resetCore s).syncPending = false := rfl
@[simp] theorem resetCore_live (s : State) :
    (resetCore s).live = map4Of s.cfg Config.defaultPos := rfl
@[simp] theorem resetCore_cfg (s : State) : (resetCore s).cfg = s.cfg := rfl
@[simp] theorem resetCore_input (s : State) : (resetCore s).input = s.input := rfl
@[simp] theorem resetCore_out (s : State) : (resetCore s).out = s.out := rfl

/-! ### `BOUNDARY` -/

/-- Everything `transfer` does, in one record (R142). -/
theorem transfer_eq (s : State) :
    transfer s =
      { s with
        live := if s.syncPending then s.shadow else s.live
        syncPending := false } := by
  unfold transfer clearSyncPending
  split <;> rfl

@[simp] theorem transfer_fstate (s : State) : (transfer s).fstate = s.fstate := by rw [transfer_eq]
@[simp] theorem transfer_payload (s : State) : (transfer s).payload = s.payload := by
  rw [transfer_eq]
@[simp] theorem transfer_cmd (s : State) : (transfer s).cmd = s.cmd := by rw [transfer_eq]
@[simp] theorem transfer_shadow (s : State) : (transfer s).shadow = s.shadow := by rw [transfer_eq]
@[simp] theorem transfer_syncPending (s : State) : (transfer s).syncPending = false := rfl
@[simp] theorem transfer_live (s : State) :
    (transfer s).live = if s.syncPending then s.shadow else s.live := by rw [transfer_eq]
@[simp] theorem transfer_cfg (s : State) : (transfer s).cfg = s.cfg := by rw [transfer_eq]
@[simp] theorem transfer_input (s : State) : (transfer s).input = s.input := by rw [transfer_eq]
@[simp] theorem transfer_out (s : State) : (transfer s).out = s.out := by rw [transfer_eq]
@[simp] theorem transfer_freeCount (s : State) : (transfer s).freeCount = s.freeCount := by
  rw [transfer_eq]

/-! ### `APPLY` -/

/-- Everything `applyTuple` does, in one record: `cmd <- t; shadow <- MAP4(t); sync_pending <- 1`
(R143). -/
theorem applyTuple_eq (t : Angles) (s : State) :
    applyTuple t s =
      { s with cmd := t, shadow := map4Of s.cfg t, syncPending := true } := rfl

@[simp] theorem applyTuple_fstate (t : Angles) (s : State) :
    (applyTuple t s).fstate = s.fstate := rfl
@[simp] theorem applyTuple_payload (t : Angles) (s : State) :
    (applyTuple t s).payload = s.payload := rfl
@[simp] theorem applyTuple_cmd (t : Angles) (s : State) : (applyTuple t s).cmd = t := rfl
@[simp] theorem applyTuple_shadow (t : Angles) (s : State) :
    (applyTuple t s).shadow = map4Of s.cfg t := rfl
@[simp] theorem applyTuple_syncPending (t : Angles) (s : State) :
    (applyTuple t s).syncPending = true := rfl
@[simp] theorem applyTuple_live (t : Angles) (s : State) : (applyTuple t s).live = s.live := rfl
@[simp] theorem applyTuple_cfg (t : Angles) (s : State) : (applyTuple t s).cfg = s.cfg := rfl
@[simp] theorem applyTuple_input (t : Angles) (s : State) : (applyTuple t s).input = s.input := rfl
@[simp] theorem applyTuple_out (t : Angles) (s : State) : (applyTuple t s).out = s.out := rfl
@[simp] theorem applyTuple_freeCount (t : Angles) (s : State) :
    (applyTuple t s).freeCount = s.freeCount := rfl

end Sys2Proof.Machine
end

