-- ==== Sys2Proof/Laws/Ops.lean ====
section
/-! SUPPORT. One lemma per shared operation that says once everything it can do, for the provers to
cite. -/

namespace Sys2Proof.Machine

/-! ### The frame decoder -/

theorem decodeByte_header {c : Config} {p : Quad Byte} {b : Byte} (h : b = c.header) :
    decodeByte c .idle p b = (.collecting 0, p, none) := by
  simp [decodeByte, h]

theorem decodeByte_discard {c : Config} {p : Quad Byte} {b : Byte} (h : b ≠ c.header) :
    decodeByte c .idle p b = (.idle, p, none) := by
  simp [decodeByte, h]

theorem decodeByte_collect (c : Config) (n : Fin 4) (p : Quad Byte) (b : Byte) :
    decodeByte c (.collecting n) p b = (afterCollect n, storePayload n b p, none) := rfl

theorem decodeByte_accept {c : Config} {p : Quad Byte} {b : Byte} (h : b = c.footer) :
    decodeByte c .awaitFooter p b = (.idle, p, some p) := by
  simp [decodeByte, h]

theorem decodeByte_reject {c : Config} {p : Quad Byte} {b : Byte} (h : b ≠ c.footer) :
    decodeByte c .awaitFooter p b = (.idle, p, none) := by
  simp [decodeByte, h]

@[simp] theorem afterCollect_zero : afterCollect 0 = .collecting 1 := rfl
@[simp] theorem afterCollect_one : afterCollect 1 = .collecting 2 := rfl
@[simp] theorem afterCollect_two : afterCollect 2 = .collecting 3 := rfl
@[simp] theorem afterCollect_three : afterCollect 3 = .awaitFooter := rfl

/-! ### `RXBYTE` -/

theorem receive_header {b : Byte} {s : State} (hf : s.fstate = .idle) (hb : b = s.cfg.header) :
    receive b s = ({ s with fstate := .collecting 0 }, none) := by
  simp [receive, hf, decodeByte_header hb]

theorem receive_discard {b : Byte} {s : State} (hf : s.fstate = .idle) (hb : b ≠ s.cfg.header) :
    receive b s = (s, none) := by
  simp only [receive, hf, decodeByte_discard hb]
  rw [← hf]

theorem receive_collect {b : Byte} {s : State} {n : Fin 4} (hf : s.fstate = .collecting n) :
    receive b s =
      ({ s with fstate := afterCollect n, payload := storePayload n b s.payload }, none) := by
  simp [receive, hf, decodeByte_collect]

theorem receive_accept {b : Byte} {s : State} (hf : s.fstate = .awaitFooter)
    (hb : b = s.cfg.footer) :
    receive b s = (applyTuple s.payload { s with fstate := .idle }, some s.payload) := by
  simp [receive, hf, decodeByte_accept hb]

theorem receive_reject {b : Byte} {s : State} (hf : s.fstate = .awaitFooter)
    (hb : b ≠ s.cfg.footer) :
    receive b s = ({ s with fstate := .idle }, none) := by
  simp [receive, hf, decodeByte_reject hb]

/-- Everything `RXBYTE` can do: one of the five byte classes (R100, R162). -/
theorem receive_cases (b : Byte) (s : State) :
    (s.fstate = .idle ∧ b = s.cfg.header ∧
      receive b s = ({ s with fstate := .collecting 0 }, none)) ∨
    (s.fstate = .idle ∧ b ≠ s.cfg.header ∧ receive b s = (s, none)) ∨
    (∃ n, s.fstate = .collecting n ∧
      receive b s =
        ({ s with fstate := afterCollect n, payload := storePayload n b s.payload }, none)) ∨
    (s.fstate = .awaitFooter ∧ b = s.cfg.footer ∧
      receive b s = (applyTuple s.payload { s with fstate := .idle }, some s.payload)) ∨
    (s.fstate = .awaitFooter ∧ b ≠ s.cfg.footer ∧
      receive b s = ({ s with fstate := .idle }, none)) := by
  rcases hf : s.fstate with _ | n | _
  · rcases eq_or_ne b s.cfg.header with hb | hb
    · exact .inl ⟨rfl, hb, receive_header hf hb⟩
    · exact .inr (.inl ⟨rfl, hb, receive_discard hf hb⟩)
  · exact .inr (.inr (.inl ⟨n, rfl, receive_collect hf⟩))
  · rcases eq_or_ne b s.cfg.footer with hb | hb
    · exact .inr (.inr (.inr (.inl ⟨rfl, hb, receive_accept hf hb⟩)))
    · exact .inr (.inr (.inr (.inr ⟨rfl, hb, receive_reject hf hb⟩)))

/-- A byte changes neither the live registers nor any of the model's own fields. -/
theorem receive_frame (b : Byte) (s : State) :
    (receive b s).1.live = s.live ∧ (receive b s).1.cfg = s.cfg ∧
      (receive b s).1.input = s.input ∧ (receive b s).1.out = s.out ∧
      (receive b s).1.freeCount = s.freeCount := by
  rcases receive_cases b s with ⟨-, -, h⟩ | ⟨-, -, h⟩ | ⟨n, -, h⟩ | ⟨-, -, h⟩ | ⟨-, -, h⟩ <;>
    rw [h] <;> exact ⟨rfl, rfl, rfl, rfl, rfl⟩

@[simp] theorem receive_live (b : Byte) (s : State) : (receive b s).1.live = s.live :=
  (receive_frame b s).1
@[simp] theorem receive_cfg (b : Byte) (s : State) : (receive b s).1.cfg = s.cfg :=
  (receive_frame b s).2.1
@[simp] theorem receive_input (b : Byte) (s : State) : (receive b s).1.input = s.input :=
  (receive_frame b s).2.2.1
@[simp] theorem receive_out (b : Byte) (s : State) : (receive b s).1.out = s.out :=
  (receive_frame b s).2.2.2.1
@[simp] theorem receive_freeCount (b : Byte) (s : State) :
    (receive b s).1.freeCount = s.freeCount :=
  (receive_frame b s).2.2.2.2

/-! ### `STEP` and `RUN` -/

@[simp] theorem stepEvent_reset (s : State) : stepEvent .reset s = (resetCore s, none) := rfl
@[simp] theorem stepEvent_rxByte (b : Byte) (s : State) :
    stepEvent (.rxByte b) s = receive b s := rfl
@[simp] theorem stepEvent_boundary (s : State) : stepEvent .boundary s = (transfer s, none) := rfl
@[simp] theorem stepEvent_nop (s : State) : stepEvent .nop s = (s, none) := rfl

/-- No event changes the configuration, the waiting input or the recorded outputs. -/
theorem stepEvent_frame (e : Event) (s : State) :
    (stepEvent e s).1.cfg = s.cfg ∧ (stepEvent e s).1.input = s.input ∧
      (stepEvent e s).1.out = s.out := by
  cases e <;> simp

@[simp] theorem stepEvent_cfg (e : Event) (s : State) : (stepEvent e s).1.cfg = s.cfg :=
  (stepEvent_frame e s).1
@[simp] theorem stepEvent_input (e : Event) (s : State) : (stepEvent e s).1.input = s.input :=
  (stepEvent_frame e s).2.1
@[simp] theorem stepEvent_out (e : Event) (s : State) : (stepEvent e s).1.out = s.out :=
  (stepEvent_frame e s).2.2

@[simp] theorem runEvents_nil (s : State) : runEvents [] s = (s, []) := rfl

@[simp] theorem runEvents_cons (e : Event) (rest : List Event) (s : State) :
    runEvents (e :: rest) s =
      ((runEvents rest (stepEvent e s).1).1,
        (stepEvent e s).2.toList ++ (runEvents rest (stepEvent e s).1).2) := rfl

/-- A run of two traces is the run of the second after the first (R167). -/
theorem runEvents_append (xs ys : List Event) (s : State) :
    runEvents (xs ++ ys) s =
      ((runEvents ys (runEvents xs s).1).1,
        (runEvents xs s).2 ++ (runEvents ys (runEvents xs s).1).2) := by
  induction xs generalizing s with
  | nil => simp
  | cons e xs ih => simp [ih, List.append_assoc]

@[simp] theorem runEvents_cfg (es : List Event) (s : State) : (runEvents es s).1.cfg = s.cfg := by
  induction es generalizing s with
  | nil => rfl
  | cons e es ih => simp [ih]

@[simp] theorem runEvents_input (es : List Event) (s : State) :
    (runEvents es s).1.input = s.input := by
  induction es generalizing s with
  | nil => rfl
  | cons e es ih => simp [ih]

@[simp] theorem runEvents_out (es : List Event) (s : State) : (runEvents es s).1.out = s.out := by
  induction es generalizing s with
  | nil => rfl
  | cons e es ih => simp [ih]

/-! ### `exec` and the clock step -/

@[simp] theorem andThen_next (s : State) (k : State → Host.Outcome State Fault Refusal) :
    andThen (.next s) k = k s := rfl

/-- The four events as instructions are `STEP` with its emission recorded (R160). -/
theorem exec_event (e : Event) (s : State) : exec e.instr s = .next (emitting (stepEvent e s)) := by
  cases e <;> rfl

/-- The recorded outputs are never read: an event from two states that differ in them alone. -/
theorem stepEvent_setOut (e : Event) (s : State) (o : List Output) :
    stepEvent e { s with out := o } =
      ({ (stepEvent e s).1 with out := o }, (stepEvent e s).2) := by
  cases e with
  | reset => rfl
  | rxByte b =>
    simp only [stepEvent, receive]
    split <;> simp_all [applyTuple_eq]
  | boundary => simp [transfer_eq]
  | nop => rfl

/-- The waiting input is never read by an event. -/
theorem stepEvent_setInput (e : Event) (s : State) (ws : List EventWord) :
    stepEvent e { s with input := ws } =
      ({ (stepEvent e s).1 with input := ws }, (stepEvent e s).2) := by
  cases e with
  | reset => rfl
  | rxByte b =>
    simp only [stepEvent, receive]
    split <;> simp_all [applyTuple_eq]
  | boundary => simp [transfer_eq]
  | nop => rfl

/-- The events of a word are one event, or a boundary and then a byte (R77). -/
theorem events_cases (ew : EventWord) :
    (∃ e, events ew = [e]) ∨ ∃ b, events ew = [.boundary, .rxByte b] := by
  unfold events
  split
  · exact .inl ⟨_, rfl⟩
  · split
    · exact .inr ⟨_, rfl⟩
    · split
      · exact .inl ⟨_, rfl⟩
      · split <;> exact .inl ⟨_, rfl⟩

theorem execEvents_one (e : Event) (s : State) :
    execEvents [e] s = .next (emitting (stepEvent e s)) := by
  simp [execEvents, exec_event]

theorem execEvents_two (b : Byte) (s : State) :
    execEvents [.boundary, .rxByte b] s =
      .next (emitting (receive b (silent (transfer s)))) := rfl

theorem fetchWord_nil {s : State} (h : s.input = []) : fetchWord s = (0, s) := by
  simp [fetchWord, h]

theorem fetchWord_cons {s : State} {ew : EventWord} {rest : List EventWord}
    (h : s.input = ew :: rest) : fetchWord s = (ew, { s with input := rest }) := by
  simp [fetchWord, h]

/-- Everything a clock step can do: one event, or a boundary and then a byte (R165). -/
theorem step_cases (s : State) :
    (∃ e, events (fetchWord s).1 = [e] ∧
      step s = .next (emitting (stepEvent e (fetchWord s).2))) ∨
    (∃ b, events (fetchWord s).1 = [.boundary, .rxByte b] ∧
      step s = .next (emitting (receive b (silent (transfer (fetchWord s).2))))) := by
  rcases events_cases (fetchWord s).1 with ⟨e, h⟩ | ⟨b, h⟩
  · exact .inl ⟨e, h, by rw [step, h, execEvents_one]⟩
  · exact .inr ⟨b, h, by rw [step, h, execEvents_two]⟩

/-- The recorded outputs are never read by a run. -/
theorem runEvents_setOut (es : List Event) (s : State) (o : List Output) :
    runEvents es { s with out := o } = ({ (runEvents es s).1 with out := o }, (runEvents es s).2) := by
  induction es generalizing s with
  | nil => rfl
  | cons e es ih => simp only [runEvents_cons, stepEvent_setOut, ih]

/-- The waiting input is never read by a run. -/
theorem runEvents_setInput (es : List Event) (s : State) (ws : List EventWord) :
    runEvents es { s with input := ws } =
      ({ (runEvents es s).1 with input := ws }, (runEvents es s).2) := by
  induction es generalizing s with
  | nil => rfl
  | cons e es ih => simp only [runEvents_cons, stepEvent_setInput, ih]

theorem runBytes_nil (s : State) : runBytes [] s = (s, []) := rfl

theorem runBytes_cons (b : Byte) (bs : List Byte) (s : State) :
    runBytes (b :: bs) s =
      ((runBytes bs (receive b s).1).1,
        (receive b s).2.toList ++ (runBytes bs (receive b s).1).2) := rfl

/-- A clock step on a presented word is the run of the word's events, with the model's own fields set
(R165). -/
theorem step_of_input {s : State} {ew : EventWord} {rest : List EventWord}
    (h : s.input = ew :: rest) :
    step s =
      .next { (runEvents (events ew) s).1 with
        input := rest
        out := (runEvents (events ew) s).2.map Output.frameReady } := by
  rcases events_cases ew with ⟨e, he⟩ | ⟨b, he⟩
  · simp only [step, fetchWord_cons h, he, execEvents_one, stepEvent_setInput, runEvents_cons,
      runEvents_nil, List.append_nil, emitting]
  · have hb : silent (transfer { s with input := rest })
        = { transfer s with input := rest, out := [] } := by simp [transfer_eq, silent]
    have ho := stepEvent_setOut (.rxByte b) { transfer s with input := rest } []
    have hi := stepEvent_setInput (.rxByte b) (transfer s) rest
    simp only [stepEvent_rxByte] at ho hi
    simp only [step, fetchWord_cons h, he, execEvents_two, runEvents_cons, runEvents_nil,
      List.append_nil, emitting, stepEvent_boundary, stepEvent_rxByte]
    rw [hb, ho, hi]
    rfl

end Sys2Proof.Machine
end

