-- ==== Sys2Proof/Laws/PerInstr.lean ====
section
/-! SUPPORT. The family `PortWords`, one lemma per instruction: the event words that present an
instruction at the ports hold exactly the events of its trace (spec/30_encoding.md R76, R77, R79). -/

namespace Sys2Proof.Laws

theorem wordData_eventWord (rst tick valid : Bool) (d : Byte) :
    wordData (eventWord rst tick valid d) = d := by
  revert d
  cases rst <;> cases tick <;> cases valid <;> decide

theorem wordRst_eventWord (rst tick valid : Bool) (d : Byte) :
    wordRst (eventWord rst tick valid d) = rst := by
  revert d
  cases rst <;> cases tick <;> cases valid <;> decide

theorem wordTick_eventWord (rst tick valid : Bool) (d : Byte) :
    wordTick (eventWord rst tick valid d) = tick := by
  revert d
  cases rst <;> cases tick <;> cases valid <;> decide

theorem wordValid_eventWord (rst tick valid : Bool) (d : Byte) :
    wordValid (eventWord rst tick valid d) = valid := by
  revert d
  cases rst <;> cases tick <;> cases valid <;> decide

/-- The word of an event holds that event and no other. -/
theorem events_word (e : Event) : events e.word = [e] := by
  cases e <;>
    simp [Event.word, events, wordRst_eventWord, wordTick_eventWord, wordValid_eventWord,
      wordData_eventWord]

theorem flatMap_events_word (es : List Event) : (es.map Event.word).flatMap events = es := by
  induction es with
  | nil => rfl
  | cons e es ih => simp [ih, events_word]

/-- The port words of an instruction hold the events of its trace. -/
def PortWords.Statement (i : Instr) : Prop :=
  ∀ c : Config, (portWords c i).flatMap events = traceOf c i

theorem PortWords.reset : PortWords.Statement .reset := fun _ => flatMap_events_word _
theorem PortWords.boundary : PortWords.Statement .boundary := fun _ => flatMap_events_word _
theorem PortWords.rxByte (b : Byte) : PortWords.Statement (.rxByte b) :=
  fun _ => flatMap_events_word _
theorem PortWords.nop : PortWords.Statement .nop := fun _ => flatMap_events_word _
theorem PortWords.idleHeader : PortWords.Statement .idleHeader := fun _ => flatMap_events_word _
theorem PortWords.idleDiscard (b : Byte) : PortWords.Statement (.idleDiscard b) :=
  fun _ => flatMap_events_word _
theorem PortWords.collect (n : Fin 4) (b : Byte) : PortWords.Statement (.collect n b) :=
  fun _ => flatMap_events_word _
theorem PortWords.footerAccept : PortWords.Statement .footerAccept := fun _ => flatMap_events_word _
theorem PortWords.footerReject (b : Byte) : PortWords.Statement (.footerReject b) :=
  fun _ => flatMap_events_word _
theorem PortWords.frame (t : Angles) : PortWords.Statement (.frame t) :=
  fun _ => flatMap_events_word _
theorem PortWords.badFrame (t : Angles) (g : Byte) : PortWords.Statement (.badFrame t g) :=
  fun _ => flatMap_events_word _
theorem PortWords.garbage (bytes : List Byte) : PortWords.Statement (.garbage bytes) :=
  fun _ => flatMap_events_word _
theorem PortWords.clamp (a : Byte) : PortWords.Statement (.clamp a) := fun _ => flatMap_events_word _
theorem PortWords.ticks (ch : Channel) (a : Byte) : PortWords.Statement (.ticks ch a) :=
  fun _ => flatMap_events_word _
theorem PortWords.regval (ch : Channel) (a : Byte) : PortWords.Statement (.regval ch a) :=
  fun _ => flatMap_events_word _
theorem PortWords.map4 (t : Angles) : PortWords.Statement (.map4 t) := fun _ => flatMap_events_word _
theorem PortWords.stage (ch : Channel) (v : Nat) : PortWords.Statement (.stage ch v) :=
  fun _ => flatMap_events_word _
theorem PortWords.commit : PortWords.Statement .commit := fun _ => flatMap_events_word _
theorem PortWords.apply (t : Angles) : PortWords.Statement (.apply t) :=
  fun _ => flatMap_events_word _

end Sys2Proof.Laws
end

