-- ==== Sys2Proof/Laws/Safety.lean ====
section
/-! SUPPORT. The small lemmas of the relation between states that differ in stale payload alone. -/

namespace Sys2Proof.Machine

@[simp] theorem writtenInFrame_idle (k : Fin 4) : WrittenInFrame .idle k ↔ False := Iff.rfl

@[simp] theorem writtenInFrame_collecting (n k : Fin 4) :
    WrittenInFrame (.collecting n) k ↔ k < n := Iff.rfl

@[simp] theorem writtenInFrame_awaitFooter (k : Fin 4) : WrittenInFrame .awaitFooter k ↔ True := Iff.rfl

/-- `COLLECT` at `n` adds position `n` to those written (R103). -/
@[simp] theorem writtenInFrame_afterCollect (n k : Fin 4) :
    WrittenInFrame (afterCollect n) k ↔ k ≤ n := by
  fin_cases n <;> fin_cases k <;> simp

/-- Distinct payload positions are distinct channels (R51). -/
theorem positionChannel_ne {n k : Fin 4} (h : k ≠ n) : positionChannel k ≠ positionChannel n := by
  revert n k
  decide

@[simp] theorem sameButStale_refl (s : State) : SameButStale s s := ⟨s.payload, rfl, fun _ _ => rfl⟩

/-- What an observer sees does not depend on the payload registers. -/
theorem SameButStale.observation_eq {s t : State} (h : SameButStale s t) :
    observation s = observation t := by
  obtain ⟨p, rfl, -⟩ := h
  rfl

end Sys2Proof.Machine
end

