-- ==== Sys2Proof/Tests/Slice0.lean ====
section
/-! SUPPORT. The model's own tests. Expected values come from spec/95_test_vectors.md and the worked examples of
the rules, under the illustrative calibrations `CFG_A` and `CFG_B` of its section 0. The last part shows,
for each statement with hypotheses, a state and operands that meet them. -/

namespace Sys2Proof.Tests

open Sys2Proof.Machine

/-! ### Calibrations and states -/

/-- `CFG_A` (95_test_vectors.md section 0). -/
def cfgA : Config :=
  { header := 0xFF, footer := 0xFE, minTicks := ⟨1000, 1000, 1000, 1000⟩,
    maxTicks := ⟨2000, 2000, 2000, 2000⟩, periodTicks := 20000, tickWidth := 15, ok := by decide }

/-- `CFG_B` (95_test_vectors.md section 0). -/
def cfgB : Config :=
  { header := 0xFF, footer := 0xFE, minTicks := ⟨500, 600, 1000, 700⟩,
    maxTicks := ⟨2500, 2400, 2000, 1507⟩, periodTicks := 20000, tickWidth := 15, ok := by decide }

/-- The state after reset under a given configuration. -/
def boot (c : Config) : State :=
  { State.reset with
    cfg := c, shadow := map4Of c Config.defaultPos, live := map4Of c Config.defaultPos }

/-- In `AwaitFooter` with a full payload, under `CFG_A`. -/
def awaiting (p : Quad Byte) : State := { boot cfgA with fstate := .awaitFooter, payload := p }

/-- Stalled after one payload byte 17, under `CFG_A` (V-D9). -/
def stalled : State := { boot cfgA with fstate := .collecting 1, payload := ⟨17, 0, 0, 0⟩ }

/-- A staged tuple with its trigger pending, under `CFG_A`. -/
def pending : State :=
  { boot cfgA with cmd := ⟨0, 0, 0, 0⟩, shadow := ⟨19000, 19000, 19000, 19000⟩, syncPending := true }

/-- The instruction completes and its next state passes the check. -/
def ends (r : Host.Outcome State Fault Refusal) (p : State → Bool) : Bool :=
  match r with
  | .next t => p t
  | .fault _ => false
  | .refused _ => false

/-! ### Configurations and well-formedness: each check refuses -/

theorem test_admits_hardware_shape :
    (cfgA.toRawConfig.accept.isOk && cfgB.toRawConfig.accept.isOk) = true := by decide

theorem test_refuses_equal_sentinels :
    ({ cfgA.toRawConfig with footer := 0xFF }).isAdmitted = false ∧
    ({ cfgA.toRawConfig with footer := 0xFF }).defect = .sentinelsEqual := by decide

theorem test_refuses_negative_span :
    ({ cfgA.toRawConfig with maxTicks := ⟨2000, 999, 2000, 2000⟩ }).isAdmitted = false ∧
    ({ cfgA.toRawConfig with maxTicks := ⟨2000, 1000, 2000, 2000⟩ }).isAdmitted = true ∧
    ({ cfgA.toRawConfig with maxTicks := ⟨2000, 999, 2000, 2000⟩ }).defect
      = .calibrationOutOfOrder .shoulder := by decide

theorem test_refuses_max_above_period :
    ({ cfgA.toRawConfig with maxTicks := ⟨2000, 2000, 2000, 20001⟩ }).isAdmitted = false ∧
    ({ cfgA.toRawConfig with maxTicks := ⟨2000, 2000, 2000, 20000⟩ }).isAdmitted = true := by decide

theorem test_refuses_narrow_width :
    ({ cfgA.toRawConfig with tickWidth := 14 }).isAdmitted = false ∧
    ({ cfgA.toRawConfig with tickWidth := 14 }).defect = .periodTooWide := by decide

theorem test_ill_formed_refused :
    (Instr.idleDiscard 0xFF).wellFormed cfgA = false ∧
    (Instr.footerReject 0xFE).wellFormed cfgA = false ∧
    (Instr.badFrame ⟨1, 2, 3, 4⟩ 0xFE).wellFormed cfgA = false ∧
    (Instr.garbage []).wellFormed cfgA = false ∧
    (Instr.garbage [0x00, 0xFF]).wellFormed cfgA = false ∧
    (Instr.ticks .base 181).wellFormed cfgA = false ∧
    (Instr.stage .claw 20001).wellFormed cfgA = false := by decide

theorem test_ill_formed_codes_refused :
    decode cfgA (.wire []) = .error .wireFitsNoPattern ∧
    decode cfgA (.wire [0xFF, 1, 2, 3, 4]) = .error .wireFitsNoPattern ∧
    decode cfgA (.ticksOperands 0b0010110101) = .error .ticksAngleAbove180 ∧
    decode cfgA (.stageOperands 0b11 20001) = .error .stageValueAbovePeriod := ⟨rfl, rfl, rfl, rfl⟩

/-- Period 0 with width 0 meets R9(c), as `0 < 2 ^ 0`. -/
theorem test_admits_width_zero :
    (RawConfig.ofDraws ⟨0, 0, 0, 0⟩ ⟨0, 0, 0, 0⟩ 0 0).tickWidth = 0 ∧
    (RawConfig.ofDraws ⟨0, 0, 0, 0⟩ ⟨0, 0, 0, 0⟩ 0 0).isAdmitted = true := by decide

/-! ### Decoding: every constructor from a word written out from its encoding -/

theorem test_decode_events :
    decode cfgA (.event 0b10000000000) = .ok [.reset] ∧
    decode cfgA (.event 0b01000000000) = .ok [.boundary] ∧
    decode cfgA (.event 0b00101011010) = .ok [.rxByte 0x5A] ∧
    decode cfgA (.event 0b00011111111) = .ok [.nop] := ⟨rfl, rfl, rfl, rfl⟩

/-- The words of 95_test_vectors.md section 5. -/
theorem test_events_of_words :
    events 0x000 = [.nop] ∧ events 0x05A = [.nop] ∧ events 0x1FF = [.rxByte 0xFF] ∧
    events 0x200 = [.boundary] ∧ events 0x2FF = [.boundary] ∧
    events 0x3FE = [.boundary, .rxByte 0xFE] ∧ events 0x400 = [.reset] ∧ events 0x7FF = [.reset] := by
  decide

theorem test_decode_byte_classes :
    decode cfgA (.byte 0b000 0b11111111) = .ok [.idleHeader] ∧
    decode cfgA (.byte 0b000 0b11111101) = .ok [.idleDiscard 0xFD] ∧
    decode cfgA (.byte 0b011 0b11111110) = .ok [.collect 2 0xFE] ∧
    decode cfgA (.byte 0b101 0b11111110) = .ok [.footerAccept] ∧
    decode cfgA (.byte 0b101 0b11111101) = .ok [.footerReject 0xFD] := ⟨rfl, rfl, rfl, rfl, rfl⟩

theorem test_unused_codes_are_idle :
    FState.ofCode 6 = .idle ∧ FState.ofCode 7 = .idle := by decide

theorem test_decode_wire :
    decode cfgA (.wire [0xFF, 0x2D, 0x5A, 0x87, 0xB4, 0xFE]) = .ok [.frame ⟨45, 90, 135, 180⟩] ∧
    decode cfgA (.wire [0xFF, 0x0A, 0x14, 0x1E, 0x28, 0x7F])
      = .ok [.badFrame ⟨10, 20, 30, 40⟩ 0x7F] ∧
    decode cfgA (.wire [0x00, 0xFE]) = .ok [.garbage [0, 254]] := ⟨rfl, rfl, rfl⟩

theorem test_decode_mapper_operands :
    decode cfgA (.clampOperand 0b11111111) = .ok [.clamp 255] ∧
    decode cfgA (.ticksOperands 0b1010110100) = .ok [.ticks .elbow 180] ∧
    decode cfgA (.regvalOperands 0b0110110101) = .ok [.regval .shoulder 181] ∧
    decode cfgA (.map4Operands 0b00000001000000100000001100000100) = .ok [.map4 ⟨1, 2, 3, 4⟩] :=
  ⟨rfl, rfl, rfl, rfl⟩

theorem test_decode_synchronizer_operands :
    decode cfgA (.stageOperands 0b11 18000) = .ok [.stage .claw 18000] ∧
    decode cfgA .commitTrigger = .ok [.commit] ∧
    decode cfgA (.applyOperands 0b01011010010110100101101000101101) = .ok [.apply ⟨90, 90, 90, 45⟩] :=
  ⟨rfl, rfl, rfl⟩

theorem test_table_words :
    decodeTableWord 16 0x400 = some .reset ∧ decodeTableWord 16 0x200 = some .boundary ∧
    decodeTableWord 16 0x100 = some (.rxByte 0) ∧ decodeTableWord 16 0x000 = some .nop ∧
    decodeTableWord 8 0xFF = some .idleHeader ∧ decodeTableWord 8 0xFE = some .footerAccept ∧
    decodeTableWord 48 0xFF01020304FE = some (.frame ⟨1, 2, 3, 4⟩) ∧
    decodeTableWord 48 0xFF0A141E287F = some (.badFrame ⟨10, 20, 30, 40⟩ 0x7F) ∧
    decodeTableWord 48 0xFE04030201FF = none := by decide

theorem test_table_word_runs_first :
    step (State.reset.withFetchWord 16 0x400) = exec .reset State.reset ∧
    step (State.reset.withFetchWord 8 0xFF) = exec .idleHeader State.reset := ⟨rfl, rfl⟩

/-- The 48-bit pattern of R70 is placed leftmost byte first (P1's frame). -/
theorem test_table_frame_placed :
    (State.reset.withFetchWord 48 0xFF2D5A87B4FE).input
      = [0x1FF, 0x12D, 0x15A, 0x187, 0x1B4, 0x1FE] := by decide

/-- The 48-bit frame of R70 is presented as six event words (P1). -/
theorem test_port_words_of_frame :
    portWords cfgB (.frame ⟨45, 90, 135, 180⟩) = [0x1FF, 0x12D, 0x15A, 0x187, 0x1B4, 0x1FE] := by
  decide

/-- `RX 0xFE + TICK` is one word (R78, P4). -/
theorem test_trace_line_words :
    TraceLine.word (.rxTick 0xFE) = 0x3FE ∧ TraceLine.word .tick = 0x200 ∧
    TraceLine.word .reset = 0x400 ∧ TraceLine.word (.rx 0xB4) = 0x1B4 ∧
    TraceLine.word .nop = 0x000 := by decide

/-! ### Events -/

/-- R161's example, from a state with a frame in progress and a commit pending (V-E4). -/
theorem test_reset_loads_defaults :
    ends (exec .reset { pending with fstate := .collecting 2 }) (fun t =>
      t.fstate == .idle && t.cmd == ⟨90, 90, 90, 0⟩ && t.shadow == ⟨18500, 18500, 18500, 19000⟩
        && t.live == ⟨18500, 18500, 18500, 19000⟩ && !t.syncPending) = true := by decide

/-- R142's example. -/
theorem test_boundary_transfers :
    ends (exec .boundary { boot cfgA with shadow := ⟨18500, 18500, 18500, 18000⟩, syncPending := true })
      (fun t => t.live == ⟨18500, 18500, 18500, 18000⟩ && !t.syncPending) = true := by decide

/-- V-S2: staging without a trigger is never transferred. -/
theorem test_boundary_without_trigger :
    ends (exec .boundary { boot cfgA with shadow := ⟨18500, 18500, 18500, 18000⟩ })
      (fun t => t.live == ⟨18500, 18500, 18500, 19000⟩) = true := by decide

/-- R162's example. -/
theorem test_rxByte_accepts :
    ends (exec (.rxByte 0xFE) (awaiting ⟨90, 90, 90, 45⟩)) (fun t =>
      t.cmd == ⟨90, 90, 90, 45⟩ && t.shadow == ⟨18500, 18500, 18500, 18750⟩ && t.syncPending
        && t.live == ⟨18500, 18500, 18500, 19000⟩ && t.out == [.frameReady ⟨90, 90, 90, 45⟩]) = true := by
  decide

/-- V-D6: a `HEADER` at the footer's place only returns to `Idle`. -/
theorem test_rxByte_header_as_footer :
    ends (exec (.rxByte 0xFF) (awaiting ⟨1, 2, 3, 4⟩)) (fun t =>
      t.fstate == .idle && t.cmd == ⟨90, 90, 90, 0⟩ && !frameReady t) = true := by decide

theorem test_nop_keeps_state :
    ends (exec .nop pending) (fun t => t == pending) = true := by decide

/-! ### Byte classes -/

theorem test_idleHeader_opens : ends (exec .idleHeader (boot cfgA)) (fun t =>
    t.fstate == .collecting 0 && t.payload == ⟨0, 0, 0, 0⟩) = true := by decide

theorem test_idleDiscard_keeps : ends (exec (.idleDiscard 0xFE) (boot cfgA)) (fun t =>
    t == boot cfgA) = true := by decide

/-- R103's example. -/
theorem test_collect_last_position :
    ends (exec (.collect 3 0x28)
      { boot cfgA with fstate := .collecting 3, payload := ⟨10, 20, 30, 0⟩ }) (fun t =>
        t.payload == ⟨10, 20, 30, 40⟩ && t.fstate == .awaitFooter) = true := by decide

theorem test_collect_second_position : ends (exec (.collect 1 0xFF) stalled) (fun t =>
    t.payload == ⟨17, 255, 0, 0⟩ && t.fstate == .collecting 2) = true := by decide

/-- R104's example. -/
theorem test_footerAccept_emits :
    ends (exec .footerAccept (awaiting ⟨90, 90, 90, 0⟩)) (fun t =>
      anglesOut t == some ⟨90, 90, 90, 0⟩ && t.fstate == .idle && t.syncPending) = true := by decide

theorem test_footerReject_drops :
    ends (exec (.footerReject 0xFD) (awaiting ⟨1, 2, 3, 4⟩)) (fun t =>
      t.payload == ⟨1, 2, 3, 4⟩ && t.fstate == .idle && !t.syncPending) = true := by decide

/-! ### Pseudo-instructions -/

/-- V-D4: `HEADER` as payload. -/
theorem test_frame_with_header_in_payload :
    ends (exec (.frame ⟨255, 7, 8, 9⟩) (boot cfgA)) (fun t =>
      t.cmd == ⟨255, 7, 8, 9⟩ && t.out == [.frameReady ⟨255, 7, 8, 9⟩]) = true := by decide

/-- V-D9: a stalled frame swallows the next one. -/
theorem test_frame_after_stall : ends (exec (.frame ⟨10, 20, 30, 40⟩) stalled) (fun t =>
    t.payload == ⟨17, 255, 10, 20⟩ && t.fstate == .idle && t.out == []) = true := by decide

/-- V-D3, first half. -/
theorem test_badFrame_dropped :
    ends (exec (.badFrame ⟨1, 2, 3, 4⟩ 0) (boot cfgA)) (fun t =>
      t.payload == ⟨1, 2, 3, 4⟩ && t.fstate == .idle && t.out == [] && !t.syncPending) = true := by
  decide

/-- V-D2. -/
theorem test_garbage_discarded :
    ends (exec (.garbage [0x00, 0xFE, 0x5A, 0x80, 0xFE]) (boot cfgA)) (fun t => t == boot cfgA) = true := by
  decide

/-! ### Mapper -/

theorem test_clamp_above : ends (exec (.clamp 200) (boot cfgA)) (fun t =>
    t.out == [.clamped 180]) = true := by decide

theorem test_clamp_at_181 : ends (exec (.clamp 181) (boot cfgA)) (fun t =>
    t.out == [.clamped 180]) = true := by decide

/-- R121's example. -/
theorem test_ticks_half : ends (exec (.ticks .base 90) (boot cfgA)) (fun t =>
    t.out == [.ticks 1500]) = true := by decide

/-- The worked uneven span: floor, not round. -/
theorem test_ticks_floor : ends (exec (.ticks .claw 90) (boot cfgB)) (fun t =>
    t.out == [.ticks 1103]) = true := by decide

theorem test_regval_uneven : ends (exec (.regval .claw 179) (boot cfgB)) (fun t =>
    t.out == [.regval 18498]) = true := by decide

/-- R122's example. -/
theorem test_regval_clamped : ends (exec (.regval .shoulder 200) (boot cfgA)) (fun t =>
    t.out == [.regval 18000]) = true := by decide

/-- V-S1. -/
theorem test_map4_lanes : ends (exec (.map4 ⟨10, 20, 30, 40⟩) (boot cfgA)) (fun t =>
    t.out == [.duties ⟨18945, 18889, 18834, 18778⟩]) = true := by decide

/-- P2's last frame. -/
theorem test_map4_uneven : ends (exec (.map4 ⟨255, 255, 254, 2⟩) (boot cfgB)) (fun t =>
    t.out == [.duties ⟨17500, 17600, 18000, 19292⟩]) = true := by decide

/-! ### Synchronizer -/

/-- R140's example. -/
theorem test_stage_claw : ends (exec (.stage .claw 18000) (boot cfgA)) (fun t =>
    t.shadow == ⟨18500, 18500, 18500, 18000⟩ && t.live == ⟨18500, 18500, 18500, 19000⟩) = true := by
  decide

theorem test_commit_sets_flag : ends (exec .commit (boot cfgA)) (fun t =>
    t.syncPending && t.live == ⟨18500, 18500, 18500, 19000⟩) = true := by decide

/-- R143's example. -/
theorem test_apply_stages : ends (exec (.apply ⟨90, 90, 90, 45⟩) (boot cfgA)) (fun t =>
    t.cmd == ⟨90, 90, 90, 45⟩ && t.shadow == ⟨18500, 18500, 18500, 18750⟩ && t.syncPending
      && t.live == ⟨18500, 18500, 18500, 19000⟩) = true := by decide

/-- V-S4: the later tuple replaces the earlier one while a trigger is pending. -/
theorem test_apply_overwrites : ends (exec (.apply ⟨180, 180, 180, 180⟩) pending) (fun t =>
    t.shadow == ⟨18000, 18000, 18000, 18000⟩ && t.syncPending) = true := by decide

/-! ### The clock step -/

/-- V-E1's last word, with nothing pending. -/
theorem test_step_boundary_then_byte :
    ends (step { awaiting ⟨0, 0, 0, 0⟩ with input := [0x3FE] }) (fun t =>
      t.live == ⟨18500, 18500, 18500, 19000⟩ && t.shadow == ⟨19000, 19000, 19000, 19000⟩
        && t.syncPending && frameReady t) = true := by decide

/-- `rst` dominates (section 5, 0x7FF). -/
theorem test_step_reset_dominates :
    ends (step { pending with input := [0x7FF] }) (fun t =>
      t.live == ⟨18500, 18500, 18500, 19000⟩ && !t.syncPending && t.input == []) = true := by decide

theorem test_step_without_input : ends (step pending) (fun t => t == pending) = true := by decide

/-! ### States and operands that meet the hypotheses of the statements -/

theorem witness_DecodeEncodeRoundTrip :
    (Instr.stage .claw 20000).wellFormed cfgA = true ∧ (Instr.ticks .base 180).wellFormed cfgA = true ∧
    (Instr.garbage [0xFE]).wellFormed cfgA = true ∧ (Instr.badFrame ⟨1, 2, 3, 4⟩ 0xFF).wellFormed cfgA = true ∧
    (Instr.idleDiscard 0xFE).wellFormed cfgA = true ∧
    (Instr.footerReject 0xFF).wellFormed cfgA = true := by decide

theorem witness_EventWordYieldsEventsInOrder :
    ({ boot cfgA with input := [0x3FE, 0x200] }).input = 0x3FE :: [0x200] := rfl

theorem witness_WrittenWordsDecode : cfgA.header = 0xFF ∧ cfgA.footer = 0xFE := by decide

theorem witness_StepRunsTheDecodedInstruction :
    (({ boot cfgA with input := [0x1FF] }).input = 0x1FF :: [] ∧
      decode cfgA (.event 0x1FF) = .ok [.rxByte 0xFF]) ∧
    (({ boot cfgA with input := [0x3FE] }).input = 0x3FE :: [] ∧
      decode cfgA (.event 0x3FE) = .ok [.boundary, .rxByte 0xFE]) ∧
    (boot cfgA).input = [] := ⟨⟨rfl, rfl⟩, ⟨rfl, rfl⟩, rfl⟩

theorem witness_PlacedTableWordRunsNext :
    (0x7FF < 2048 ∧ events (BitVec.ofNat 11 0x7FF) = [.reset]) ∧
    (0x3FE < 2048 ∧ events (BitVec.ofNat 11 0x3FE) = [.boundary, .rxByte 0xFE]) ∧
    (0xFF < 256 ∧ (boot cfgA).cfg.header = 0xFF ∧ (boot cfgA).cfg.footer = 0xFE) ∧
    decodeTableWord 48 0xFF2D5A87B4FE = some (.frame ⟨45, 90, 135, 180⟩) ∧
    decodeTableWord 48 0x000102030405 = some (.garbage [0, 1, 2, 3, 4, 5]) := by decide

theorem witness_IdleHeaderOpensFrame : (boot cfgA).fstate = .idle := rfl

theorem witness_IdleDiscardWritesNothing :
    ((boot cfgA).fstate = .idle ∧ (0xFE : Byte) ≠ (boot cfgA).cfg.header) ∧
    ∀ b ∈ ([0x00, 0xFE, 0xFD] : List Byte), b ≠ (boot cfgA).cfg.header := by decide

theorem witness_CollectStoresOnePosition :
    stalled.fstate = .collecting 1 ∧ (1 : Fin 4).val + 1 < 4 ∧
    ({ stalled with fstate := .collecting 3 }).fstate = .collecting 3 ∧
    (3 : Fin 4).val + 1 = 4 ∧ (0 : Fin 4) ≠ 3 := by decide

theorem witness_FooterAcceptEmitsAndApplies : (awaiting ⟨1, 2, 3, 255⟩).fstate = .awaitFooter := rfl

theorem witness_FooterRejectOnlyReturnsToIdle :
    (awaiting ⟨1, 2, 3, 4⟩).fstate = .awaitFooter ∧
    (0xFF : Byte) ≠ (awaiting ⟨1, 2, 3, 4⟩).cfg.footer := by decide

theorem witness_SentinelsAreDataInPayload :
    FState.collecting 3 ≠ .idle ∧ FState.collecting 3 ≠ .awaitFooter ∧ cfgA.footer = cfgB.footer ∧
    cfgA.header = cfgB.header := by decide

theorem witness_UnacceptedByteTouchesOnlyDecoder :
    ¬ ((awaiting ⟨1, 2, 3, 4⟩).fstate = .awaitFooter ∧
      (0xFD : Byte) = (awaiting ⟨1, 2, 3, 4⟩).cfg.footer) ∧
    (awaiting ⟨1, 2, 3, 4⟩).fstate = .awaitFooter ∧
    (0xFE : Byte) = (awaiting ⟨1, 2, 3, 4⟩).cfg.footer := by decide

/-- For the statements about the next state of a clock step: a footer that completes a frame. -/
theorem witness_step_answers :
    ∃ t, step { awaiting ⟨1, 2, 3, 4⟩ with input := [0x1FE] } = .next t ∧
      t.fstate ≠ (awaiting ⟨1, 2, 3, 4⟩).fstate ∧
      wordValid (fetchWord { awaiting ⟨1, 2, 3, 4⟩ with input := [0x1FE] }).1 = true ∧
      frameReady t = true := ⟨_, rfl, by decide, by decide, by decide⟩

theorem witness_FramePathIsSixBytes :
    (boot cfgA).fstate = .idle ∧ ([0xFF, 0xFE, 0xFE, 0x00, 0xFE] : List Byte).length = 5 := by decide

theorem witness_StalledFrameSwallowsBytes :
    stalled.fstate = .collecting 1 ∧ ([0xFF, 10, 20] : List Byte).length = 4 - (1 : Fin 4).val ∧
    (0 : Fin 4) < 1 ∧ (1 : Fin 4) ≤ 3 := by decide

theorem witness_FiveNeutralBytesReachIdle :
    5 ≤ ([0, 1, 2, 3, 0xFD] : List Byte).length ∧
    ∀ b ∈ ([0, 1, 2, 3, 0xFD] : List Byte), b ≠ stalled.cfg.header ∧ b ≠ stalled.cfg.footer := by decide

theorem witness_StalePayloadIsNeverRead : ({ boot cfgA with payload := ⟨1, 2, 3, 4⟩ }).fstate = .idle := rfl

/-- Two stalled states with different bytes at the positions still to come, and a byte's clock step from one. -/
theorem witness_StepKeepsStaleRelation :
    SameButStale { stalled with input := [0x1FF] }
      { stalled with input := [0x1FF], payload := ⟨17, 9, 8, 7⟩ } ∧
    (∃ s', step { stalled with input := [0x1FF] } = .next s' ∧ s'.fstate = .collecting 2) ∧
    (boot cfgA).fstate = .idle :=
  ⟨⟨⟨17, 9, 8, 7⟩, rfl, fun k (hk : k < 1) => by rw [show k = 0 by omega]; rfl⟩, ⟨_, rfl, rfl⟩, rfl⟩

theorem witness_DecoderIgnoresLaterStages :
    (boot cfgA).cfg = pending.cfg ∧ (boot cfgA).fstate = pending.fstate ∧
    (boot cfgA).payload = pending.payload ∧ (boot cfgA).freeCount = pending.freeCount ∧
    (boot cfgA).shadow ≠ pending.shadow := by decide

/-- For the statements about a pseudo-instruction or garbage received in `Idle`. -/
theorem witness_pseudo_from_idle :
    (boot cfgA).fstate = .idle ∧ (0xFF : Byte) ≠ (boot cfgA).cfg.footer ∧
    ∀ g ∈ ([0x00, 0xFE] : List Byte), g ≠ (boot cfgA).cfg.header := by decide

theorem witness_TicksIsLinearMap :
    (180 : Byte).toNat ≤ 180 ∧
    quadGet cfgA.maxTicks .base - quadGet cfgA.minTicks .base = 1000 ∧
    ({ cfgA.toRawConfig with maxTicks := ⟨1000, 1179, 2000, 2000⟩ }).isAdmitted = true := by decide

theorem witness_RegvalIsComplement : 180 ≤ (180 : Byte).toNat ∧ 180 ≤ (255 : Byte).toNat := by decide

theorem witness_MapFourIsFourLanes :
    quadGet (⟨1, 2, 3, 4⟩ : Angles) .elbow = quadGet (⟨5, 6, 3, 8⟩ : Angles) .elbow := rfl

theorem witness_MapperIsMonotone :
    (179 ≤ 180 ∧ 180 ≤ 180) ∧ (180 : Byte).toNat ≤ (181 : Byte).toNat := by decide

/-- The state after reset under `CFG_A` meets the invariants. -/
theorem witness_StateInv : StateInv (boot cfgA) where
  shadow_eq := rfl
  live_eq := ⟨Config.defaultPos, rfl⟩
  settled := fun _ => rfl
  shadow_range := by intro ch; cases ch <;> decide
  live_range := by intro ch; cases ch <;> decide

/-- So does a state with a commit pending, and its next step is a boundary. -/
theorem witness_StepKeepsInvariants :
    StateInv { pending with input := [0x200] } ∧
    ∃ t, step { pending with input := [0x200] } = .next t ∧ t.live = ⟨19000, 19000, 19000, 19000⟩ :=
  ⟨{ shadow_eq := by decide
     live_eq := ⟨Config.defaultPos, rfl⟩
     settled := by decide
     shadow_range := by intro ch; cases ch <;> decide
     live_range := by intro ch; cases ch <;> decide },
   ⟨_, rfl, by decide⟩⟩

theorem witness_StageWritesOneShadow :
    0 ≤ (boot cfgA).cfg.periodTicks ∧ 20000 ≤ (boot cfgA).cfg.periodTicks ∧
    (boot cfgA).syncPending = false ∧ Channel.base ≠ .claw := by decide

theorem witness_NopChangesNothing :
    ({ pending with input := [0x05A, 0x200] }).input
      = eventWord false false false 0x5A :: [0x200] := by decide

theorem witness_LiveChangesOnlyAtBoundaryOrReset :
    ∃ t, exec .boundary pending = .next t ∧ dutyOut t ≠ dutyOut pending := ⟨_, rfl, by decide⟩

theorem witness_LastEmissionReachesOutputs :
    (∀ e ∈ ([.rxByte 0xFE, .nop] : List Event), e ≠ .reset ∧ e ≠ .boundary) ∧
    (runEvents [.rxByte 0xFE, .nop] (awaiting ⟨1, 2, 3, 4⟩)).2 = [⟨1, 2, 3, 4⟩] := by decide

theorem witness_CoincidentBoundaryComesFirst :
    ({ awaiting ⟨1, 2, 3, 4⟩ with input := [0x3FE] }).input
      = eventWord false true true (awaiting ⟨1, 2, 3, 4⟩).cfg.footer :: [] ∧
    (awaiting ⟨1, 2, 3, 4⟩).fstate = .awaitFooter := by decide

/-- V-S9's start. -/
theorem witness_InterleavedStagingWouldMix :
    pending.syncPending = true ∧ pending.shadow = map4Of pending.cfg ⟨0, 0, 0, 0⟩ := by decide

/-- A raw configuration for each way to be refused: equal sentinels, the last channel alone out of order, a width
one bit short. -/
theorem witness_ConfigurationsAdmittedExactly :
    (∃ r : RawConfig, r.header = r.footer) ∧
    (∃ r : RawConfig, r.header ≠ r.footer ∧
      ¬ (quadGet r.minTicks .claw ≤ quadGet r.maxTicks .claw ∧
        quadGet r.maxTicks .claw ≤ r.periodTicks) ∧
      ∀ k : Channel, k.index < Channel.claw.index →
        quadGet r.minTicks k ≤ quadGet r.maxTicks k ∧ quadGet r.maxTicks k ≤ r.periodTicks) ∧
    (∃ r : RawConfig, r.header ≠ r.footer ∧
      (∀ ch : Channel, quadGet r.minTicks ch ≤ quadGet r.maxTicks ch ∧
        quadGet r.maxTicks ch ≤ r.periodTicks) ∧ ¬ r.periodTicks < 2 ^ r.tickWidth) :=
  ⟨⟨{ cfgA.toRawConfig with footer := 0xFF }, rfl⟩,
   ⟨{ cfgA.toRawConfig with maxTicks := ⟨2000, 2000, 2000, 999⟩ }, by decide, by decide,
     fun k => by cases k <;> decide⟩,
   ⟨{ cfgA.toRawConfig with tickWidth := 14 }, by decide, fun ch => by cases ch <;> decide, by decide⟩⟩

theorem witness_ConfigurationNeverChanges :
    (∃ t, exec .reset pending = .next t) ∧ ∃ t, step pending = .next t := ⟨⟨_, rfl⟩, ⟨_, rfl⟩⟩

theorem witness_ErrorConditionsAreSilent :
    .framingDesync ∈ errorsOf (boot cfgA) 0xFE ∧
    .wrongFooter ∈ errorsOf (awaiting ⟨1, 2, 3, 4⟩) 0xFD ∧
    .angleOutOfRange .claw ∈ errorsOf (awaiting ⟨180, 2, 3, 181⟩) 0xFE ∧
    .angleOutOfRange .base ∉ errorsOf (awaiting ⟨180, 2, 3, 181⟩) 0xFE := by decide

/-- A frame with boundaries and idle steps inside it (V-E2, V-E6). -/
theorem witness_FrameEndToEnd :
    (boot cfgA).fstate = .idle ∧
    (∀ e ∈ ([.boundary, .rxByte 0xFF, .rxByte 45, .boundary, .rxByte 46, .nop, .rxByte 47,
      .rxByte 48] : List Event), e ≠ .reset) ∧
    bytesOf [.boundary, .rxByte 0xFF, .rxByte 45, .boundary, .rxByte 46, .nop, .rxByte 47, .rxByte 48]
      = [(boot cfgA).cfg.header, 45, 46, 47, 48] ∧
    (∀ e ∈ ([.nop, .boundary] : List Event), e = .boundary ∨ e = .nop) ∧
    Event.boundary ∈ [.nop, .boundary] ∧ Event.boundary ∉ [.nop] := by decide

theorem witness_ClockStepsRunTheEvents :
    ({ boot cfgA with input := [0x1FF, 0x3FE, 0x000] }).input = [0x1FF, 0x3FE] ++ [0x000] := rfl

theorem witness_PortWordsRunThePseudoInstruction :
    ({ boot cfgA with input := portWords cfgA (.badFrame ⟨1, 2, 3, 4⟩ 5) ++ [0x200] }).input
      = portWords (boot cfgA).cfg (.badFrame ⟨1, 2, 3, 4⟩ 5) ++ [0x200] := rfl

end Sys2Proof.Tests
end

/-! The statements of 00_scope.md: every step answers a next state (R14, R160), the configurations of R9 are
admitted exactly, and the decoder depends on no later stage (R3, R63). -/

namespace Sys2Proof

open Sys2Proof.Machine

/-! ### Every step answers -/

/-- R14: every arm of `exec` ends in a next state, whatever the instruction's operands and the state. -/
theorem exec_answers (i : Instr) (s : State) : ∃ t : State, exec i s = .next t := by
  cases i <;> exact ⟨_, rfl⟩

/-- R160, R165: a clock step is one event, or a boundary and then a byte, and both answer. -/
theorem step_answers (s : State) : ∃ t : State, step s = .next t := by
  rcases step_cases s with ⟨e, -, h⟩ | ⟨b, -, h⟩
  · exact ⟨_, h⟩
  · exact ⟨_, h⟩

/-- Settles O49: the instructions arm by arm, the clock step by what it can do. -/
theorem everyStepHasANextState : Obligations.EveryStepHasANextState :=
  ⟨exec_answers, step_answers⟩

/-! ### Which configurations are admitted -/

/-- Condition (b) of R9 at one channel; reducible, so that it is decided as the two comparisons it is. -/
@[reducible] def RawConfig.InOrder (r : RawConfig) (ch : Channel) : Prop :=
  quadGet r.minTicks ch ≤ quadGet r.maxTicks ch ∧ quadGet r.maxTicks ch ≤ r.periodTicks

theorem RawConfig.channelOk_iff (r : RawConfig) (ch : Channel) :
    RawConfig.channelOk (quadGet r.minTicks ch) (quadGet r.maxTicks ch) r.periodTicks = true ↔
      r.InOrder ch := by
  simp [RawConfig.channelOk, RawConfig.InOrder]

/-- R9 with its condition (b) said of every channel at once. -/
theorem RawConfig.isAdmitted_iff_inOrder (r : RawConfig) :
    r.isAdmitted = true ↔
      r.header ≠ r.footer ∧ (∀ ch, r.InOrder ch) ∧ r.periodTicks < 2 ^ r.tickWidth := by
  rw [RawConfig.isAdmitted_iff]
  constructor
  · rintro ⟨ha, hbase, hshoulder, helbow, hclaw, hc⟩
    refine ⟨ha, fun ch => ?_, hc⟩
    cases ch
    · exact hbase
    · exact hshoulder
    · exact helbow
    · exact hclaw
  · rintro ⟨ha, hb, hc⟩
    exact ⟨ha, hb .base, hb .shoulder, hb .elbow, hb .claw, hc⟩

/-- Acceptance answers a configuration with the very parameters asked for exactly when R9 holds. -/
theorem RawConfig.isAdmitted_iff_accept (r : RawConfig) :
    r.isAdmitted = true ↔ ∃ c : Config, r.accept = .ok c ∧ c.toRawConfig = r := by
  constructor
  · intro h
    exact ⟨{ r with ok := h }, by simp [RawConfig.accept, h], rfl⟩
  · rintro ⟨c, -, rfl⟩
    exact c.ok

/-- A configuration that R9 does not admit is refused by its first defect. -/
theorem RawConfig.accept_of_not_isAdmitted {r : RawConfig} (h : ¬ r.isAdmitted = true) :
    r.accept = .error r.defect := by
  simp [RawConfig.accept, h]

/-- The name of a defect, with each channel's test said by `RawConfig.InOrder`. -/
theorem RawConfig.defect_eq (r : RawConfig) :
    r.defect =
      if r.header = r.footer then .sentinelsEqual
      else if ¬ r.InOrder .base then .calibrationOutOfOrder .base
      else if ¬ r.InOrder .shoulder then .calibrationOutOfOrder .shoulder
      else if ¬ r.InOrder .elbow then .calibrationOutOfOrder .elbow
      else if ¬ r.InOrder .claw then .calibrationOutOfOrder .claw
      else .periodTooWide := by
  simp only [← RawConfig.channelOk_iff, quadGet, RawConfig.defect, beq_iff_eq, Bool.not_eq_true',
    Bool.not_eq_true]

theorem RawConfig.defect_of_sentinels_equal {r : RawConfig} (h : r.header = r.footer) :
    r.defect = .sentinelsEqual := by
  rw [RawConfig.defect_eq, if_pos h]

/-- With distinct sentinels, the first channel out of order names the defect. -/
theorem RawConfig.defect_of_first_out_of_order {r : RawConfig} {ch : Channel}
    (ha : r.header ≠ r.footer) (hch : ¬ r.InOrder ch)
    (hbelow : ∀ k : Channel, k.index < ch.index → r.InOrder k) :
    r.defect = .calibrationOutOfOrder ch := by
  rw [RawConfig.defect_eq, if_neg ha]
  cases ch with
  | base => simp [hch]
  | shoulder => simp [hch, hbelow .base (by decide)]
  | elbow => simp [hch, hbelow .base (by decide), hbelow .shoulder (by decide)]
  | claw =>
    simp [hch, hbelow .base (by decide), hbelow .shoulder (by decide), hbelow .elbow (by decide)]

theorem RawConfig.defect_of_all_in_order {r : RawConfig} (ha : r.header ≠ r.footer)
    (hb : ∀ ch, r.InOrder ch) : r.defect = .periodTooWide := by
  simp [RawConfig.defect_eq, ha, hb]

/-- Settles O50: acceptance is R9, and a refusal names `RawConfig.defect`, which is read off for each way
to break R9. -/
theorem configurationsAdmittedExactly : Obligations.ConfigurationsAdmittedExactly := by
  intro r
  have hadm := r.isAdmitted_iff_inOrder
  have refused (h : ¬ (r.header ≠ r.footer ∧ (∀ ch, r.InOrder ch) ∧
      r.periodTicks < 2 ^ r.tickWidth)) : r.accept = .error r.defect :=
    RawConfig.accept_of_not_isAdmitted (mt hadm.mp h)
  refine ⟨hadm.symm.trans r.isAdmitted_iff_accept, fun heq => ?_, fun ch ha hch hbelow => ?_,
    fun ha hb hwide => ?_, refused⟩
  · rw [refused fun h => h.1 heq, RawConfig.defect_of_sentinels_equal heq]
  · rw [refused fun h => hch (h.2.1 ch), RawConfig.defect_of_first_out_of_order ha hch hbelow]
  · rw [refused fun h => hwide h.2.2, RawConfig.defect_of_all_in_order ha hb]

/-! ### The decoder depends on no later stage -/

/-- Agreement on all the decoder reads: the configuration, its own two registers, and the model's draw
count, from which a `RESET` fills the payload (log entry 4). -/
structure SameDecoder (s t : State) : Prop where
  cfg : s.cfg = t.cfg
  fstate : s.fstate = t.fstate
  payload : s.payload = t.payload
  freeCount : s.freeCount = t.freeCount

/-- R100, R162: the decoder's registers and the emission after a byte are those of the transition table;
the `APPLY` of an accepted tuple touches neither register. -/
theorem receive_decoder (b : Byte) (s : State) :
    ((receive b s).1.fstate, (receive b s).1.payload, (receive b s).2) =
      decodeByte s.cfg s.fstate s.payload b := by
  rcases receive_cases b s with ⟨hf, hb, h⟩ | ⟨hf, hb, h⟩ | ⟨n, hf, h⟩ | ⟨hf, hb, h⟩ | ⟨hf, hb, h⟩
  · rw [h, hf, decodeByte_header hb]
  · rw [h, hf, decodeByte_discard hb]
  · rw [h, hf, decodeByte_collect]
  · rw [h, hf, decodeByte_accept hb, applyTuple_fstate, applyTuple_payload]
  · rw [h, hf, decodeByte_reject hb]

/-- A byte keeps the agreement and emits the same from both states. -/
theorem SameDecoder.after_receive {s t : State} (h : SameDecoder s t) (b : Byte) :
    (receive b s).2 = (receive b t).2 ∧ SameDecoder (receive b s).1 (receive b t).1 := by
  obtain ⟨hcfg, hfstate, hpayload, hfree⟩ := h
  have htable := receive_decoder b s
  rw [hcfg, hfstate, hpayload, ← receive_decoder b t] at htable
  obtain ⟨hf, hp, he⟩ := by simpa only [Prod.mk.injEq] using htable
  exact ⟨he, by simpa using hcfg, hf, hp, by simpa using hfree⟩

/-- Every event keeps the agreement and emits the same from both states. -/
theorem SameDecoder.after_stepEvent {s t : State} (h : SameDecoder s t) (e : Event) :
    (stepEvent e s).2 = (stepEvent e t).2 ∧ SameDecoder (stepEvent e s).1 (stepEvent e t).1 := by
  cases e with
  | reset =>
    exact ⟨rfl, h.cfg, rfl, congrArg freePayload h.freeCount, congrArg (· + 4) h.freeCount⟩
  | rxByte b => exact h.after_receive b
  | boundary =>
    exact ⟨rfl, by simpa using h.cfg, by simpa using h.fstate, by simpa using h.payload,
      by simpa using h.freeCount⟩
  | nop => exact ⟨rfl, h⟩

/-- Every trace keeps the agreement and emits the same from both states. -/
theorem SameDecoder.after_runEvents (es : List Event) {s t : State} (h : SameDecoder s t) :
    (runEvents es s).2 = (runEvents es t).2 ∧ SameDecoder (runEvents es s).1 (runEvents es t).1 := by
  induction es generalizing s t with
  | nil => exact ⟨rfl, h⟩
  | cons e es ih =>
    obtain ⟨hout, hstep⟩ := h.after_stepEvent e
    obtain ⟨houts, hrun⟩ := ih hstep
    simp only [runEvents_cons]
    exact ⟨by rw [hout, houts], hrun⟩

/-- Settles O23, by the agreement that every trace keeps. -/
theorem decoderIgnoresLaterStages : Obligations.DecoderIgnoresLaterStages := by
  intro es s t hcfg hfstate hpayload hfree
  obtain ⟨hout, hsame⟩ := SameDecoder.after_runEvents es ⟨hcfg, hfstate, hpayload, hfree⟩
  exact ⟨hout, hsame.fstate, hsame.payload⟩

end Sys2Proof

/-! The statements of 10_state.md: what a clock step does to the decoder's registers and to `cmd` (R21, R24, R28),
what it keeps (R30, R32), that stale payload is never read (R35), and the written-out words of
95_test_vectors.md. -/

namespace Sys2Proof.Machine

/-! ### The clock step as a run -/

/-- R165: a clock step is the run of the word's events, with the model's own fields set; `step_of_input` with
the `NOP` of an empty input (R164) added. -/
theorem step_eq_runEvents (s : State) :
    step s =
      .next { (runEvents (events (fetchWord s).1) s).1 with
        input := s.input.tail
        out := (runEvents (events (fetchWord s).1) s).2.map Output.frameReady } := by
  cases hin : s.input with
  | nil =>
    have hnop : events 0 = [.nop] := by decide
    rw [step, fetchWord_nil hin, hnop, execEvents_one]
    simp [emitting, hin]
  | cons ew rest =>
    rw [step_of_input hin, fetchWord_cons hin]
    rfl

theorem eq_of_step {s t : State} (h : step s = .next t) :
    t = { (runEvents (events (fetchWord s).1) s).1 with
      input := s.input.tail
      out := (runEvents (events (fetchWord s).1) s).2.map Output.frameReady } := by
  rw [step_eq_runEvents] at h
  exact (Host.Outcome.next.inj h).symm

/-- What every event keeps, every run keeps. -/
theorem runEvents_keeps {P : State → Prop} (hev : ∀ e s, P s → P (stepEvent e s).1) (es : List Event)
    {s : State} (hs : P s) : P (runEvents es s).1 := by
  induction es generalizing s with
  | nil => exact hs
  | cons e es ih => exact ih (hev e s hs)

/-! ### Invariants -/

theorem regvalOf_le_periodTicks (c : Config) (ch : Channel) (a : Byte) :
    regvalOf c ch a ≤ c.periodTicks := Nat.sub_le _ _

theorem inPeriod_map4Of (c : Config) (t : Angles) : InPeriod c (map4Of c t) := by
  intro ch
  rw [quadGet_map4Of]
  exact regvalOf_le_periodTicks c ch _

/-- R32: (I6) follows from (I3) and (I4), as every mapped tuple lies in range (R125). -/
theorem stateInv_iff (s : State) :
    StateInv s ↔
      s.shadow = map4Of s.cfg s.cmd ∧ (∃ t : Angles, s.live = map4Of s.cfg t) ∧
        (s.syncPending = false → s.live = s.shadow) := by
  constructor
  · intro h
    exact ⟨h.shadow_eq, h.live_eq, h.settled⟩
  · rintro ⟨hshadow, ⟨t, hlive⟩, hsettled⟩
    exact ⟨hshadow, ⟨t, hlive⟩, hsettled, hshadow ▸ inPeriod_map4Of _ _, hlive ▸ inPeriod_map4Of _ _⟩

/-- The invariants speak of the later stages alone: the decoder's registers and the model's own fields are free. -/
theorem StateInv.of_eq {s t : State} (h : StateInv s) (hcfg : t.cfg = s.cfg) (hcmd : t.cmd = s.cmd)
    (hshadow : t.shadow = s.shadow) (hsync : t.syncPending = s.syncPending) (hlive : t.live = s.live) :
    StateInv t := by
  rw [stateInv_iff, hcfg, hcmd, hshadow, hsync, hlive]
  exact (stateInv_iff s).mp h

/-- R161: `RESET` establishes the invariants, whatever held before. -/
theorem stateInv_resetCore (s : State) : StateInv (resetCore s) :=
  (stateInv_iff _).mpr ⟨rfl, ⟨Config.defaultPos, rfl⟩, fun _ => rfl⟩

/-- R142: after a boundary `live` shows the staged tuple, or what it showed with nothing pending. -/
theorem StateInv.after_transfer {s : State} (h : StateInv s) : StateInv (transfer s) := by
  have hlive : (transfer s).live = s.shadow := by
    rw [transfer_live]
    split
    · rfl
    · next hp => exact h.settled (Bool.eq_false_of_not_eq_true hp)
  rw [stateInv_iff]
  refine ⟨by simpa using h.shadow_eq, ⟨s.cmd, ?_⟩, fun _ => ?_⟩
  · rw [hlive, transfer_cfg, h.shadow_eq]
  · rw [hlive, transfer_shadow]

/-- R143: `APPLY` stages the mapping of the tuple it stores, and leaves the trigger pending. -/
theorem StateInv.after_applyTuple {s : State} (h : StateInv s) (t : Angles) :
    StateInv (applyTuple t s) := by
  rw [stateInv_iff]
  exact ⟨rfl, h.live_eq, fun hp => by simp at hp⟩

/-- R162: only an accepted footer reaches the later stages, and it does so by `APPLY`. -/
theorem StateInv.after_receive {s : State} (h : StateInv s) (b : Byte) : StateInv (receive b s).1 := by
  rcases receive_cases b s with ⟨-, -, hr⟩ | ⟨-, -, hr⟩ | ⟨n, -, hr⟩ | ⟨-, -, hr⟩ | ⟨-, -, hr⟩ <;> rw [hr]
  case inl => exact h.of_eq rfl rfl rfl rfl rfl
  case inr.inl => exact h
  case inr.inr.inl => exact h.of_eq rfl rfl rfl rfl rfl
  case inr.inr.inr.inl =>
    have hidle : StateInv { s with fstate := .idle } := h.of_eq rfl rfl rfl rfl rfl
    exact hidle.after_applyTuple s.payload
  case inr.inr.inr.inr => exact h.of_eq rfl rfl rfl rfl rfl

theorem StateInv.after_stepEvent (e : Event) (s : State) (h : StateInv s) :
    StateInv (stepEvent e s).1 := by
  cases e with
  | reset => exact stateInv_resetCore s
  | rxByte b => exact h.after_receive b
  | boundary => exact h.after_transfer
  | nop => exact h

/-- Settles O53: every event of the word keeps the invariants, and so does their run. -/
theorem stepKeepsInvariants : Obligations.StepKeepsInvariants := by
  intro s t hs hstep
  have hrun := runEvents_keeps StateInv.after_stepEvent (events (fetchWord s).1) hs
  rw [eq_of_step hstep]
  exact hrun.of_eq rfl rfl rfl rfl rfl

/-- Settles O54: at reset `shadow` and `live` are both the mapping of the default. -/
theorem resetStateMeetsInvariants : Obligations.ResetStateMeetsInvariants :=
  (stateInv_iff _).mpr ⟨rfl, ⟨Config.defaultPos, rfl⟩, fun _ => rfl⟩

/-! ### Stale payload -/

/-- R103: a byte stored at `n` is the same in both states, and the positions below `n` agreed before. -/
theorem SameButStale.after_collect {s : State} {n : Fin 4} {p : Quad Byte} (b : Byte)
    (hp : ∀ k : Fin 4, k < n → quadGet p (positionChannel k) = quadGet s.payload (positionChannel k)) :
    SameButStale { s with fstate := afterCollect n, payload := storePayload n b s.payload }
      { s with fstate := afterCollect n, payload := storePayload n b p } := by
  refine ⟨storePayload n b p, rfl, fun k hk => ?_⟩
  have hle : k ≤ n := (writtenInFrame_afterCollect n k).mp hk
  rcases eq_or_lt_of_le hle with rfl | hlt
  · simp only [storePayload, quadGet_quadSet_same]
  · simp only [storePayload, quadGet_quadSet_other _ _ (positionChannel_ne hlt.ne), hp k hlt]

/-- Two payloads that agree at every position are the same payload (R51). -/
theorem payload_ext {p q : Quad Byte}
    (h : ∀ k : Fin 4, quadGet p (positionChannel k) = quadGet q (positionChannel k)) : p = q :=
  quad_ext fun
    | .base => h 0
    | .shoulder => h 1
    | .elbow => h 2
    | .claw => h 3

/-- In `Idle` no position is written, so the payload is free. -/
theorem sameButStale_of_idle {s : State} (p : Quad Byte) (hf : s.fstate = .idle) :
    SameButStale s { s with payload := p } :=
  ⟨p, rfl, fun k hk => by simp [hf] at hk⟩

/-- A byte reads the payload only in `AwaitFooter`, where all four positions are written. -/
theorem SameButStale.after_receive {s t : State} (h : SameButStale s t) (b : Byte) :
    (receive b s).2 = (receive b t).2 ∧ SameButStale (receive b s).1 (receive b t).1 := by
  obtain ⟨p, rfl, hp⟩ := h
  rcases receive_cases b s with ⟨hf, hb, hr⟩ | ⟨hf, hb, hr⟩ | ⟨n, hf, hr⟩ | ⟨hf, hb, hr⟩ | ⟨hf, hb, hr⟩
  case inl =>
    rw [hr, receive_header (s := { s with payload := p }) hf hb]
    exact ⟨rfl, p, rfl, fun k hk => absurd hk (Nat.not_lt_zero _)⟩
  case inr.inl =>
    rw [hr, receive_discard (s := { s with payload := p }) hf hb]
    exact ⟨rfl, sameButStale_of_idle p hf⟩
  case inr.inr.inl =>
    rw [hr, receive_collect (s := { s with payload := p }) hf]
    exact ⟨rfl, SameButStale.after_collect b fun k hk => hp k (by rwa [hf])⟩
  case inr.inr.inr.inl =>
    have hall : p = s.payload := payload_ext fun k => hp k (by rw [hf]; trivial)
    subst hall
    exact ⟨rfl, sameButStale_refl _⟩
  case inr.inr.inr.inr =>
    rw [hr, receive_reject (s := { s with payload := p }) hf hb]
    exact ⟨rfl, sameButStale_of_idle (s := { s with fstate := .idle }) p rfl⟩

/-- Every event emits the same from both states and keeps them equal but for stale payload. -/
theorem SameButStale.after_stepEvent {s t : State} (h : SameButStale s t) (e : Event) :
    (stepEvent e s).2 = (stepEvent e t).2 ∧ SameButStale (stepEvent e s).1 (stepEvent e t).1 := by
  cases e with
  | reset =>
    obtain ⟨p, rfl, -⟩ := h
    exact ⟨rfl, sameButStale_refl _⟩
  | rxByte b => exact h.after_receive b
  | boundary =>
    obtain ⟨p, rfl, hp⟩ := h
    refine ⟨rfl, p, ?_, ?_⟩
    · simp only [stepEvent_boundary, transfer_eq]
    · simpa using hp
  | nop => exact ⟨rfl, h⟩

/-- So does every trace. -/
theorem SameButStale.after_runEvents (es : List Event) {s t : State} (h : SameButStale s t) :
    (runEvents es s).2 = (runEvents es t).2 ∧ SameButStale (runEvents es s).1 (runEvents es t).1 := by
  induction es generalizing s t with
  | nil => exact ⟨rfl, h⟩
  | cons e es ih =>
    obtain ⟨hout, hstep⟩ := h.after_stepEvent e
    obtain ⟨houts, hrun⟩ := ih hstep
    simp only [runEvents_cons]
    exact ⟨by rw [hout, houts], hrun⟩

/-- The model's own input and output fields may be set alike on both sides. -/
theorem SameButStale.set_ports {s t : State} (h : SameButStale s t) (ws : List EventWord)
    (o : List Output) :
    SameButStale { s with input := ws, out := o } { t with input := ws, out := o } := by
  obtain ⟨p, rfl, hp⟩ := h
  exact ⟨p, rfl, hp⟩

theorem SameButStale.input_eq {s t : State} (h : SameButStale s t) : s.input = t.input := by
  obtain ⟨p, rfl, -⟩ := h
  rfl

theorem fetchWord_fst_congr {s t : State} (h : s.input = t.input) :
    (fetchWord s).1 = (fetchWord t).1 := by
  cases hs : s.input with
  | nil => rw [fetchWord_nil hs, fetchWord_nil (h ▸ hs)]
  | cons ew rest => rw [fetchWord_cons hs, fetchWord_cons (h ▸ hs)]

/-- A clock step from the one state is matched by one from the other: both take the same word. -/
theorem SameButStale.after_step {s t s' : State} (h : SameButStale s t) (hstep : step s = .next s') :
    ∃ t' : State, step t = .next t' ∧ SameButStale s' t' := by
  obtain ⟨hout, hrun⟩ := h.after_runEvents (events (fetchWord s).1)
  refine ⟨_, step_eq_runEvents t, ?_⟩
  rw [eq_of_step hstep, ← fetchWord_fst_congr h.input_eq, ← h.input_eq, ← hout]
  exact hrun.set_ports _ _

/-- Settles O58: the relation event by event, and by the run of a word's events for the clock step. -/
theorem stepKeepsStaleRelation : Obligations.StepKeepsStaleRelation := by
  refine ⟨fun e s t h => h.after_stepEvent e, fun s t s' h hstep => ?_,
    fun s p hf => sameButStale_of_idle p hf⟩
  obtain ⟨t', ht', hsame⟩ := h.after_step hstep
  exact ⟨t', ht', hsame, hsame.observation_eq⟩

/-- Settles O22: in `Idle` the payload is stale, and every trace keeps the states equal but for it. -/
theorem stalePayloadIsNeverRead : Obligations.StalePayloadIsNeverRead := by
  intro es s p hf
  obtain ⟨hout, q, hq, -⟩ := (sameButStale_of_idle p hf).after_runEvents es
  exact ⟨q, Prod.ext hq hout.symm⟩

/-! ### The decoder and `cmd` over a clock step -/

/-- R77: a word's events, read off its control bits. -/
theorem events_by_flags (ew : EventWord) :
    (wordRst ew = true ∧ events ew = [.reset]) ∨
    (wordRst ew = false ∧ wordValid ew = true ∧
      (events ew = [.rxByte (wordData ew)] ∨ events ew = [.boundary, .rxByte (wordData ew)])) ∨
    (wordRst ew = false ∧ wordValid ew = false ∧
      (events ew = [.boundary] ∨ events ew = [.nop])) := by
  cases hrst : wordRst ew with
  | true => exact .inl ⟨rfl, if_pos hrst⟩
  | false =>
    refine .inr ?_
    cases hvalid : wordValid ew with
    | true =>
      refine .inl ⟨rfl, rfl, ?_⟩
      cases htick : wordTick ew <;> simp [events, hrst, hvalid, htick]
    | false =>
      refine .inr ⟨rfl, rfl, ?_⟩
      cases htick : wordTick ew <;> simp [events, hrst, hvalid, htick]

/-- R24, R143: a byte that emits stores what it emits in `cmd`; any other leaves `cmd`. -/
theorem receive_cmd (b : Byte) (s : State) : (receive b s).1.cmd = (receive b s).2.getD s.cmd := by
  rcases receive_cases b s with ⟨-, -, hr⟩ | ⟨-, -, hr⟩ | ⟨n, -, hr⟩ | ⟨-, -, hr⟩ | ⟨-, -, hr⟩ <;>
    rw [hr] <;> rfl

/-- R28, R104: the decoder emits exactly on the `FOOTER` in `AwaitFooter`, and then the payload. -/
theorem decodeByte_emission (c : Config) (f : FState) (p : Quad Byte) (b : Byte) :
    (decodeByte c f p b).2.2 = if f = .awaitFooter ∧ b = c.footer then some p else none := by
  cases f with
  | idle =>
    rcases eq_or_ne b c.header with hb | hb
    · simp [decodeByte_header hb]
    · simp [decodeByte_discard hb]
  | collecting n => simp [decodeByte_collect]
  | awaitFooter =>
    rcases eq_or_ne b c.footer with hb | hb
    · rw [decodeByte_accept hb, if_pos ⟨rfl, hb⟩]
    · rw [decodeByte_reject hb, if_neg fun h => hb h.2]

/-- R21: whatever byte comes in `AwaitFooter`, the decoder goes to `Idle`. -/
theorem decodeByte_awaitFooter_fst (c : Config) (p : Quad Byte) (b : Byte) :
    (decodeByte c .awaitFooter p b).1 = .idle := by
  rcases eq_or_ne b c.footer with hb | hb
  · rw [decodeByte_accept hb]
  · rw [decodeByte_reject hb]

/-- What a byte does to `fstate` and `cmd` and what it emits, by the transition table (R100, R162). -/
theorem receive_by_table (b : Byte) (s : State) :
    (receive b s).1.fstate = (decodeByte s.cfg s.fstate s.payload b).1 ∧
    (receive b s).2 = (decodeByte s.cfg s.fstate s.payload b).2.2 ∧
    (receive b s).1.cmd = (decodeByte s.cfg s.fstate s.payload b).2.2.getD s.cmd := by
  rw [receive_cmd, ← receive_decoder]
  exact ⟨rfl, rfl, rfl⟩

/-- What a clock step can do to `fstate` and `cmd` and what it emits: a reset, a byte, or neither; a boundary in
the same word touches none of the three (R77, R142). -/
theorem step_decoder_cases {s t : State} (h : step s = .next t) :
    (wordRst (fetchWord s).1 = true ∧ t.fstate = .idle ∧ t.cmd = Config.defaultPos ∧
      emissionsOf t.out = []) ∨
    (wordRst (fetchWord s).1 = false ∧ wordValid (fetchWord s).1 = true ∧
      ∃ r, r = decodeByte s.cfg s.fstate s.payload (wordData (fetchWord s).1) ∧
        t.fstate = r.1 ∧ t.cmd = r.2.2.getD s.cmd ∧ emissionsOf t.out = r.2.2.toList) ∨
    (wordRst (fetchWord s).1 = false ∧ wordValid (fetchWord s).1 = false ∧ t.fstate = s.fstate ∧
      t.cmd = s.cmd ∧ emissionsOf t.out = []) := by
  obtain rfl := eq_of_step h
  rcases events_by_flags (fetchWord s).1 with ⟨hrst, hev⟩ | ⟨hrst, hvalid, hev⟩ | ⟨hrst, hvalid, hev⟩
  case inl =>
    refine .inl ⟨hrst, ?_⟩
    simp [hev, emissionsOf]
  case inr.inl =>
    refine .inr (.inl ⟨hrst, hvalid, _, rfl, ?_⟩)
    rcases hev with hev | hev
    · obtain ⟨hf, he, hc⟩ := receive_by_table (wordData (fetchWord s).1) s
      simp [hev, hf, he, hc]
    · obtain ⟨hf, he, hc⟩ := receive_by_table (wordData (fetchWord s).1) (transfer s)
      simp only [transfer_cfg, transfer_fstate, transfer_payload, transfer_cmd] at hf he hc
      simp [hev, hf, he, hc]
  case inr.inr =>
    refine .inr (.inr ⟨hrst, hvalid, ?_⟩)
    rcases hev with hev | hev <;> simp [hev, emissionsOf]

/-- Settles O16: a reset and a byte are the two ways to move, and both lead from `AwaitFooter` to `Idle`. -/
theorem decoderMovesOnlyOnByteOrReset : Obligations.DecoderMovesOnlyOnByteOrReset := by
  intro s t hstep
  rcases step_decoder_cases hstep with
    ⟨hrst, hidle, -, -⟩ | ⟨-, hvalid, r, rfl, hf, -, -⟩ | ⟨-, hvalid, hsame, -, -⟩
  · exact ⟨fun _ => .inr hrst, fun _ _ => hidle, fun _ _ => hidle⟩
  · have hidle (hs : s.fstate = .awaitFooter) : t.fstate = .idle := by
      rw [hf, hs, decodeByte_awaitFooter_fst]
    exact ⟨fun _ => .inl hvalid, fun hs _ => hidle hs, fun hs _ => hidle hs⟩
  · exact ⟨fun hmove => absurd hsame hmove, fun _ hmove => absurd hsame hmove,
      fun _ hv => by simp [hvalid] at hv⟩

/-- Settles O17: only a byte can emit, and it does so exactly on the footer in `AwaitFooter`. -/
theorem frameReadyExactlyOnAcceptedFooter : Obligations.FrameReadyExactlyOnAcceptedFooter := by
  intro s t hstep
  rcases step_decoder_cases hstep with
    ⟨hrst, -, -, hout⟩ | ⟨hrst, hvalid, r, rfl, -, -, hout⟩ | ⟨-, hvalid, -, -, hout⟩
  · simp [frameReady, anglesOut, hout, hrst]
  · rw [decodeByte_emission] at hout
    by_cases hacc : s.fstate = .awaitFooter ∧ wordData (fetchWord s).1 = s.cfg.footer
    · simp [frameReady, anglesOut, hout, hacc, hrst, hvalid]
    · simp only [frameReady, anglesOut, hout, if_neg hacc]
      refine ⟨⟨by simp, fun ⟨_, _, hdata, hs⟩ => absurd ⟨hs, hdata⟩ hacc⟩, by simp⟩
  · simp [frameReady, anglesOut, hout, hvalid]

/-- Settles O40: a byte stores in `cmd` just what it emits, which is the payload. -/
theorem commandedPositionReplacedWhole : Obligations.CommandedPositionReplacedWhole := by
  intro s t hstep
  rcases step_decoder_cases hstep with
    ⟨hrst, -, hcmd, -⟩ | ⟨-, -, r, rfl, -, hcmd, hout⟩ | ⟨-, -, -, hcmd, -⟩
  · exact .inr (.inl ⟨hrst, hcmd⟩)
  · rw [decodeByte_emission] at hcmd hout
    split at hcmd
    · next hacc => exact .inr (.inr ⟨hcmd, by simpa [hacc] using hout⟩)
    · exact .inl hcmd
  · exact .inl hcmd

/-! ### The configuration -/

/-- R30: every arm of `exec` keeps the configuration; the arms that run events do so as their run does. -/
theorem exec_cfg {i : Instr} {s t : State} (h : exec i s = .next t) : t.cfg = s.cfg := by
  cases i <;> obtain rfl := Host.Outcome.next.inj h
  case boundary => exact transfer_cfg s
  case rxByte b => exact receive_cfg b s
  case frame u => exact runEvents_cfg _ s
  case badFrame u g => exact runEvents_cfg _ s
  case garbage bytes => exact runEvents_cfg _ s
  all_goals rfl

theorem step_cfg {s t : State} (h : step s = .next t) : t.cfg = s.cfg := by
  rw [eq_of_step h]
  exact runEvents_cfg _ s

/-- Settles O51, instruction by instruction, and by the run of the word's events. -/
theorem configurationNeverChanges : Obligations.ConfigurationNeverChanges :=
  ⟨fun _ _ _ => exec_cfg, fun _ _ => step_cfg⟩

/-! ### Reset values -/

/-- R122's corner: at angle 0 the register value is the period less the smallest ticks. -/
theorem regvalOf_zero (c : Config) (ch : Channel) :
    regvalOf c ch 0 = c.periodTicks - quadGet c.minTicks ch := by
  simp [regvalOf, ticksOf, clampAngle, angleOf]

/-- Settles O46: `shadow` and `live` are `MAP4` of the default, lane by lane, and the claw's default is 0. -/
theorem resetStateHasSpecValues : Obligations.ResetStateHasSpecValues :=
  ⟨rfl, rfl, quadGet_map4Of _ _, rfl, quadGet_map4Of _ _, regvalOf_zero _ .claw⟩

end Sys2Proof.Machine

namespace Sys2Proof

/-! ### Written-out words -/

/-- R77: an event word decodes to the events it yields. -/
theorem decode_event {c : Config} {ew : EventWord} {is : List Instr}
    (h : (events ew).map Event.instr = is) : decode c (.event ew) = .ok is := by
  rw [decode, h]

/-- R71, R80: a byte under a code of `Idle`. -/
theorem decode_byte_idle {c : Config} {k : BitVec 3} (h : FState.ofCode k = .idle) (b : Byte) :
    decode c (.byte k b) = .ok [if b = c.header then .idleHeader else .idleDiscard b] := by
  rw [decode, h, byteClass]

/-- R71: a byte under the code of `AwaitFooter`. -/
theorem decode_byte_awaitFooter (c : Config) (b : Byte) :
    decode c (.byte 5 b) = .ok [if b = c.footer then .footerAccept else .footerReject b] := rfl

/-- R79: six wire bytes from a `HEADER` are a frame when the last is the `FOOTER`, else a bad frame. -/
theorem decode_wire_frameBytes (c : Config) (t : Angles) (g : Byte) :
    decode c (.wire (frameBytes c t g)) =
      .ok [if g = c.footer then .frame t else .badFrame t g] := by
  by_cases hg : g = c.footer
  · simp [decode, decodeWire, frameBytes, hg, Except.map]
  · simp [decode, decodeWire, frameBytes, hg, Except.map]

/-- R79: two wire bytes are no frame, so they are garbage when neither is the `HEADER`, else nothing. -/
theorem decode_wire_pair (c : Config) (a b : Byte) :
    decode c (.wire [a, b]) =
      if a ≠ c.header ∧ b ≠ c.header then .ok [.garbage [a, b]] else .error .wireFitsNoPattern := by
  by_cases h : a ≠ c.header ∧ b ≠ c.header
  · simp [decode, decodeWire, h, Except.map]
  · simp [decode, decodeWire, h, Except.map]

/-- Settles O3: event words by their events, operand words by evaluation, bytes by their byte class and wire
bytes by their pattern, the last two under the sentinels given. -/
theorem writtenWordsDecode : Obligations.WrittenWordsDecode := by
  constructor
  · intro c
    exact ⟨decode_event (by decide), decode_event (by decide), decode_event (by decide),
      decode_event (by decide), decode_event (by decide), decode_event (by decide),
      rfl, rfl, rfl, rfl, rfl, rfl⟩
  · intro c hh hf
    have idle (k : BitVec 3) (hk : FState.ofCode k = .idle) (b : Byte) :=
      decode_byte_idle (c := c) hk b
    have awaitFooter (b : Byte) := decode_byte_awaitFooter c b
    have six (t : Angles) (g : Byte) := decode_wire_frameBytes c t g
    have two (a b : Byte) := decode_wire_pair c a b
    simp only [frameBytes, hh, hf] at idle awaitFooter six two
    exact ⟨idle 0 rfl 0xFF, idle 0 rfl 0xFE, rfl, rfl, awaitFooter 0xFE, awaitFooter 0xFF,
      idle 6 rfl 0xFF, six ⟨90, 90, 90, 0⟩ 0xFE, six ⟨10, 20, 30, 40⟩ 0x7F, two 0x00 0xFE,
      two 0x00 0xFF⟩

end Sys2Proof

/-! The statements of 20_memory.md: between two boundaries the last emitted tuple wins (R61, R146, R147), and
which events are idempotent (R58). -/

namespace Sys2Proof.Machine

/-! ### Last write wins -/

/-- Of what an event and the run after it emit, the last is the run's last, or else the event's. -/
theorem getLast?_toList_append {α : Type} (o : Option α) (ts : List α) :
    (o.toList ++ ts).getLast? = ts.getLast?.or o := by
  rw [List.getLast?_append]
  cases o <;> rfl

/-- R60, R61: a value that every emission overwrites, and every other event keeps, is after a run the one of
the last emission. -/
theorem runEvents_overwrites {α : Type} {v : State → α} {f : Config → Angles → α} {es : List Event}
    (hev : ∀ e ∈ es, ∀ s, v (stepEvent e s).1 = (stepEvent e s).2.elim (v s) (f s.cfg)) (s : State) :
    v (runEvents es s).1 = (runEvents es s).2.getLast?.elim (v s) (f s.cfg) := by
  induction es generalizing s with
  | nil => rfl
  | cons e es ih =>
    obtain ⟨hhead, htail⟩ := List.forall_mem_cons.mp hev
    have hrest := ih htail (stepEvent e s).1
    rw [hhead s, stepEvent_cfg] at hrest
    rw [runEvents_cons, hrest, getLast?_toList_append]
    cases (runEvents es (stepEvent e s).1).2.getLast? <;> rfl

/-- An event that is neither a reset nor a boundary is a byte or no input. -/
theorem rxByte_or_nop {e : Event} (h : e ≠ .reset ∧ e ≠ .boundary) :
    (∃ b, e = .rxByte b) ∨ e = .nop := by
  cases e with
  | reset => exact absurd rfl h.1
  | rxByte b => exact .inl ⟨b, rfl⟩
  | boundary => exact absurd rfl h.2
  | nop => exact .inr rfl

/-- R143, R147: an emission replaces what the next boundary will show, and any other byte keeps it. -/
theorem transfer_receive_live (b : Byte) (s : State) :
    (transfer (receive b s).1).live = (receive b s).2.elim (transfer s).live (map4Of s.cfg) := by
  rcases receive_cases b s with ⟨-, -, hr⟩ | ⟨-, -, hr⟩ | ⟨n, -, hr⟩ | ⟨-, -, hr⟩ | ⟨-, -, hr⟩ <;>
    simp [hr]

section
variable {e : Event} (he : e ≠ .reset ∧ e ≠ .boundary) (s : State)
include he

theorem stepEvent_live : (stepEvent e s).1.live = s.live := by
  rcases rxByte_or_nop he with ⟨b, rfl⟩ | rfl
  · exact receive_live b s
  · rfl

theorem stepEvent_cmd : (stepEvent e s).1.cmd = (stepEvent e s).2.elim s.cmd id := by
  rcases rxByte_or_nop he with ⟨b, rfl⟩ | rfl
  · rw [stepEvent_rxByte, receive_cmd]
    cases (receive b s).2 <;> rfl
  · rfl

theorem transfer_stepEvent_live :
    (transfer (stepEvent e s).1).live =
      (stepEvent e s).2.elim (transfer s).live (map4Of s.cfg) := by
  rcases rxByte_or_nop he with ⟨b, rfl⟩ | rfl
  · exact transfer_receive_live b s
  · rfl

end

section
variable {es : List Event} (hes : ∀ e ∈ es, e ≠ .reset ∧ e ≠ .boundary) (s : State)
include hes

/-- R147: without a boundary the outputs stay. -/
theorem runEvents_live : (runEvents es s).1.live = s.live := by
  induction es generalizing s with
  | nil => rfl
  | cons e es ih =>
    obtain ⟨he, hrest⟩ := List.forall_mem_cons.mp hes
    rw [runEvents_cons, ih hrest, stepEvent_live he]

theorem runEvents_cmd : (runEvents es s).1.cmd = (runEvents es s).2.getLastD s.cmd := by
  rw [runEvents_overwrites (v := State.cmd) (f := fun _ => id) (fun e he => stepEvent_cmd (hes e he)),
    List.getLastD_eq_getLast?]
  cases (runEvents es s).2.getLast? <;> rfl

/-- R61, R146: the boundary that follows shows the last emission only. -/
theorem transfer_runEvents_live :
    (transfer (runEvents es s).1).live =
      (runEvents es s).2.getLast?.elim (transfer s).live (map4Of s.cfg) :=
  runEvents_overwrites (v := fun s => (transfer s).live)
    (fun e he => transfer_stepEvent_live (hes e he)) s

end

/-- Settles O41: `cmd` and what the next boundary would show are both overwritten by every emission. -/
theorem lastEmissionReachesOutputs : Obligations.LastEmissionReachesOutputs := by
  intro es s hes
  refine ⟨runEvents_live hes s, runEvents_cmd hes s, ?_⟩
  rw [runEvents_append, runEvents_cons, runEvents_nil, stepEvent_boundary,
    transfer_runEvents_live hes, transfer_live]
  cases (runEvents es s).2.getLast? <;> rfl

/-! ### Idempotency -/

/-- R58, R142: the first boundary leaves no trigger pending, so a second one transfers nothing. -/
theorem transfer_transfer (s : State) : transfer (transfer s) = transfer s := by
  simp [transfer_eq]

/-- R58, R35: what a reset loads depends on the configuration alone, but for the free payload and its draw
count. -/
theorem resetCore_resetCore (s : State) :
    resetCore (resetCore s) =
      { resetCore s with
        payload := freePayload (resetCore s).freeCount
        freeCount := (resetCore s).freeCount + 4 } := rfl

/-- R58, R103: a `HEADER` inside a frame is data, so after the one that opened the frame it is stored. -/
theorem runEvents_two_headers {s : State} (hf : s.fstate = .idle) :
    (runEvents [.rxByte s.cfg.header, .rxByte s.cfg.header] s).1 =
      { s with fstate := .collecting 1, payload := storePayload 0 s.cfg.header s.payload } := by
  have hstore : receive s.cfg.header { s with fstate := .collecting 0 } =
      ({ s with fstate := .collecting 1, payload := storePayload 0 s.cfg.header s.payload }, none) :=
    receive_collect (n := 0) rfl
  simp only [runEvents_cons, runEvents_nil, stepEvent_rxByte, receive_header hf rfl, hstore]

/-- Settles O47: a boundary after a boundary, a reset after a reset, and a second `HEADER` in its own class. -/
theorem idempotencyOfEvents : Obligations.IdempotencyOfEvents := by
  refine ⟨fun s => ?_, fun s => ⟨_, _, resetCore_resetCore s⟩, fun s => runEvents_two_headers⟩
  simp [transfer_transfer]

end Sys2Proof.Machine

/-! The statements of 30_encoding.md: decoding undoes encoding (R71, R76, R79, R81), the clock step runs
what the event word decodes to (R77, R165), and a pseudo-instruction is the run of its bytes, from a table
word and at the ports too (R79). -/

namespace Sys2Proof

open Sys2Proof.Machine Sys2Proof.Laws

/-! ### Encoding and decoding -/

/-- R76, R77: the word of an event decodes to the event's row. -/
theorem decode_word (c : Config) (e : Event) : decode c (.event e.word) = .ok [e.instr] :=
  decode_event (by rw [events_word]; rfl)

/-- R22, R71: a byte under a decoder state's own code is read in that state. -/
theorem decode_byte_code (c : Config) (f : FState) (b : Byte) :
    decode c (.byte f.code b) = .ok [byteClass c f b] := by
  rw [decode, fstate_ofCode_code]

theorem byteClass_header (c : Config) : byteClass c .idle c.header = .idleHeader := if_pos rfl

theorem byteClass_discard {c : Config} {b : Byte} (h : b ≠ c.header) :
    byteClass c .idle b = .idleDiscard b := if_neg h

theorem byteClass_accept (c : Config) : byteClass c .awaitFooter c.footer = .footerAccept := if_pos rfl

theorem byteClass_reject {c : Config} {b : Byte} (h : b ≠ c.footer) :
    byteClass c .awaitFooter b = .footerReject b := if_neg h

/-- R79: one or more wire bytes without a `HEADER` are garbage, six of them too. -/
theorem decodeWire_garbage {c : Config} {bytes : List Byte} (hne : bytes ≠ [])
    (hall : ∀ g ∈ bytes, g ≠ c.header) : decodeWire c bytes = .ok (.garbage bytes) := by
  have hcheck : (bytes.all fun x => x != c.header) = true := by simpa using hall
  unfold decodeWire
  split
  · exact absurd rfl hne
  · next h b s e cl g => rw [if_neg (hall h List.mem_cons_self), if_pos hcheck]
  · rw [if_pos hcheck]

/-- Settles O1, row by row: the events by their words, the byte classes by the state whose code they carry, the
pseudo-instructions by their wire patterns, the rest by their operand fields. -/
theorem decodeEncodeRoundTrip : Obligations.DecodeEncodeRoundTrip := by
  intro c i hwf
  cases i with
  | reset => exact decode_word c .reset
  | boundary => exact decode_word c .boundary
  | rxByte b => exact decode_word c (.rxByte b)
  | nop => exact decode_word c .nop
  | idleHeader => rw [encode, decode_byte_code, byteClass_header]
  | idleDiscard b =>
    have hb : b ≠ c.header := by simpa [Instr.wellFormed] using hwf
    rw [encode, decode_byte_code, byteClass_discard hb]
  | collect n b => rw [encode, decode_byte_code, byteClass]
  | footerAccept => rw [encode, decode_byte_code, byteClass_accept]
  | footerReject b =>
    have hb : b ≠ c.footer := by simpa [Instr.wellFormed] using hwf
    rw [encode, decode_byte_code, byteClass_reject hb]
  | frame t => rw [encode, decode_wire_frameBytes, if_pos rfl]
  | badFrame t g =>
    have hg : g ≠ c.footer := by simpa [Instr.wellFormed] using hwf
    rw [encode, decode_wire_frameBytes, if_neg hg]
  | garbage bytes =>
    obtain ⟨hne, hall⟩ : bytes ≠ [] ∧ ∀ g ∈ bytes, g ≠ c.header := by
      simpa [Instr.wellFormed] using hwf
    rw [encode, decode, decodeWire_garbage hne hall]
    rfl
  | clamp a => rfl
  | ticks ch a =>
    have ha : a.toNat ≤ Config.angleMax := by simpa [Instr.wellFormed] using hwf
    simp [encode, decode, ha]
  | regval ch a => simp [encode, decode]
  | map4 t => simp [encode, decode]
  | stage ch v =>
    have hv : v ≤ c.periodTicks := by simpa [Instr.wellFormed] using hwf
    simp [encode, decode, hv]
  | commit => rfl
  | apply t => simp [encode, decode]

/-! ### Bytes and their classes -/

/-- Settles O8: each of the five things a byte can do is the pseudocode of its class. -/
theorem rxByteRunsItsByteClass : Obligations.RxByteRunsItsByteClass := by
  intro s b
  have hrx : exec (.rxByte b) s = .next (emitting (receive b s)) := exec_event (.rxByte b) s
  rw [hrx]
  rcases receive_cases b s with
    ⟨hf, rfl, hr⟩ | ⟨hf, hb, hr⟩ | ⟨n, hf, hr⟩ | ⟨hf, rfl, hr⟩ | ⟨hf, hb, hr⟩
  · rw [hr, hf, byteClass_header]; rfl
  · rw [hr, hf, byteClass_discard hb]; rfl
  · rw [hr, hf]; rfl
  · rw [hr, hf, byteClass_accept]; rfl
  · rw [hr, hf, byteClass_reject hb]; rfl

/-- R102: in `Idle`, bytes other than `HEADER` leave the whole state and emit nothing. -/
theorem runBytes_garbage {s : State} {bytes : List Byte} (hf : s.fstate = .idle)
    (hall : ∀ g ∈ bytes, g ≠ s.cfg.header) : runBytes bytes s = (s, []) := by
  induction bytes with
  | nil => rfl
  | cons b bs ih =>
    obtain ⟨hb, hbs⟩ := List.forall_mem_cons.mp hall
    rw [runBytes_cons, receive_discard hf hb, ih hbs]
    rfl

/-- Settles O27: the run of such bytes leaves the state, so only the outputs of the last instruction go. -/
theorem garbageFromIdleIsDiscarded : Obligations.GarbageFromIdleIsDiscarded := by
  intro s bytes hf hall
  have hrun : exec (.garbage bytes) s = .next (emittingAll (runBytes bytes s)) := rfl
  rw [hrun, runBytes_garbage hf hall]
  rfl

/-! ### The clock step -/

/-- Settles O2: the fields read back what was packed, `events` is the table of R77, and the step takes the
oldest word. -/
theorem eventWordYieldsEventsInOrder : Obligations.EventWordYieldsEventsInOrder := by
  refine ⟨fun rst tick valid d => ?_, fun ew => rfl, fun s ew rest hin => ?_⟩
  · exact ⟨wordRst_eventWord .., wordTick_eventWord .., wordValid_eventWord .., wordData_eventWord ..⟩
  · rw [step, fetchWord_cons hin]

/-- R77: a boundary and a byte at the same clock edge both occur, the boundary first (D5). -/
theorem events_boundary_rxByte (b : Byte) :
    events (eventWord false true true b) = [.boundary, .rxByte b] := by
  simp [events, wordRst_eventWord, wordTick_eventWord, wordValid_eventWord, wordData_eventWord]

/-- Settles O42: the boundary does not touch the decoder, so the footer after it is still accepted. -/
theorem coincidentBoundaryComesFirst : Obligations.CoincidentBoundaryComesFirst := by
  intro s rest hin hf
  have haccept := receive_accept (s := transfer s) ((transfer_fstate s).trans hf)
    (congrArg (·.footer) (transfer_cfg s).symm)
  have hrun : runEvents [.boundary, .rxByte s.cfg.footer] s =
      (applyTuple (transfer s).payload { transfer s with fstate := .idle }, [(transfer s).payload]) := by
    rw [runEvents_cons, stepEvent_boundary, runEvents_cons, stepEvent_rxByte, haccept]
    rfl
  rw [step_of_input hin, events_boundary_rxByte, hrun, applyTuple_eq, transfer_eq]
  rfl

/-- R165: one event of a clock step is `exec` of its row. -/
theorem execEvents_singleton (e : Event) (s : State) : execEvents [e] s = exec e.instr s := by
  rw [execEvents_one, exec_event]

/-- R60, R165: of two events the second runs on the first one's next state. -/
theorem execEvents_pair (e f : Event) (s : State) :
    execEvents [e, f] s = andThen (exec e.instr s) (fun t => exec f.instr t) := by
  simp [execEvents, exec_event]

/-- R77: what an event word decodes to are the rows of the events it yields. -/
theorem map_instr_of_decode {c : Config} {ew : EventWord} {is : List Instr}
    (h : decode c (.event ew) = .ok is) : (events ew).map Event.instr = is := Except.ok.inj h

/-- Settles O4, by the number of events the word yields; an empty input is the word 0, whose event is `NOP`. -/
theorem stepRunsTheDecodedInstruction : Obligations.StepRunsTheDecodedInstruction := by
  refine ⟨fun s ew rest i hin hdec => ?_, fun s ew rest i j hin hdec => ?_, fun s hin => ?_⟩
  · obtain ⟨e, he, rfl⟩ := List.map_eq_singleton_iff.mp (map_instr_of_decode hdec)
    rw [step, fetchWord_cons hin, he, execEvents_singleton]
  · obtain ⟨e, es, he, rfl, hes⟩ := List.map_eq_cons_iff.mp (map_instr_of_decode hdec)
    obtain ⟨f, rfl, rfl⟩ := List.map_eq_singleton_iff.mp hes
    rw [step, fetchWord_cons hin, he, execEvents_pair]
  · have hnop : events 0 = [.nop] := by decide
    rw [step, fetchWord_nil hin, hnop, execEvents_singleton]
    rfl

/-- A state with other words waiting at the ports and other outputs recorded: the two fields that no event
reads. -/
def Machine.State.withPorts (s : State) (ws : List EventWord) (o : List Output) : State :=
  { s with input := ws, out := o }

theorem runEvents_withPorts (es : List Event) (s : State) (ws : List EventWord) (o : List Output) :
    runEvents es (s.withPorts ws o) =
      ((runEvents es s).1.withPorts ws o, (runEvents es s).2) := by
  have ho := runEvents_setOut es { s with input := ws } o
  rw [runEvents_setInput] at ho
  exact ho

/-- R165: the clock step on a presented word, as `step_of_input` has it. -/
theorem step_eq_withPorts {s : State} {w : EventWord} {rest : List EventWord} (hin : s.input = w :: rest) :
    step s = .next ((runEvents (events w) s).1.withPorts rest
      ((runEvents (events w) s).2.map Output.frameReady)) := step_of_input hin

/-- R165, R167: the clock steps on some presented words are the run of the events these yield, and an observer
sees the run's emissions in order. -/
theorem runSteps_of_input {ws rest : List EventWord} {s : State} (hin : s.input = ws ++ rest) :
    (∃ o, runSteps ws.length s = .next ((runEvents (ws.flatMap events) s).1.withPorts rest o)) ∧
    (observe ws.length s).flatMap Observation.emitted = (runEvents (ws.flatMap events) s).2 := by
  induction ws generalizing s with
  | nil => exact ⟨⟨s.out, by rw [← show s.input = rest from hin]; rfl⟩, rfl⟩
  | cons w ws ih =>
    have hstep : step s = _ := step_eq_withPorts hin
    obtain ⟨⟨o, hrun⟩, hobs⟩ := ih (s := (runEvents (events w) s).1.withPorts (ws ++ rest)
      ((runEvents (events w) s).2.map Output.frameReady)) rfl
    rw [runEvents_withPorts] at hrun hobs
    rw [List.length_cons, List.flatMap_cons, runEvents_append]
    constructor
    · refine ⟨o, ?_⟩
      rw [runSteps, hstep, andThen_next]
      exact hrun
    · rw [observe, hstep]
      refine congrArg₂ (· ++ ·) ?_ hobs
      exact emissionsOf_frameReady _

/-! ### Pseudo-instructions -/

/-- `i` is one of the three pseudo-instructions of R79. -/
def Instr.IsPseudo (i : Instr) : Prop :=
  (∃ t, i = .frame t) ∨ (∃ t g, i = .badFrame t g) ∨ (∃ bytes, i = .garbage bytes)

/-- R79: a pseudo-instruction is the run of its trace (log entry 11). -/
theorem exec_of_isPseudo {i : Instr} (hi : i.IsPseudo) (s : State) :
    exec i s = .next (emittingAll (runEvents (traceOf s.cfg i) s)) := by
  rcases hi with ⟨t, rfl⟩ | ⟨t, g, rfl⟩ | ⟨bytes, rfl⟩
  · rfl
  · rfl
  · rfl

/-- Settles O24: the traces of R79 written out. -/
theorem pseudoInstructionsAreTheirExpansions : Obligations.PseudoInstructionsAreTheirExpansions := by
  intro s b sh e cl g bytes
  exact ⟨exec_of_isPseudo (.inl ⟨_, rfl⟩) s, exec_of_isPseudo (.inr (.inl ⟨_, _, rfl⟩)) s,
    exec_of_isPseudo (.inr (.inr ⟨_, rfl⟩)) s⟩

/-- A pseudo-instruction, as the run it is, reads neither what waits at the ports nor the recorded outputs. -/
theorem exec_withPorts {i : Instr} (hi : i.IsPseudo) (s : State) (ws : List EventWord) (o : List Output) :
    exec i (s.withPorts ws o) =
      .next (emittingAll ((runEvents (traceOf s.cfg i) s).1.withPorts ws o,
        (runEvents (traceOf s.cfg i) s).2)) := by
  rw [exec_of_isPseudo hi, runEvents_withPorts]
  rfl

/-- R79, R165: the clock steps on an instruction's port words are the run of its trace. -/
theorem runSteps_portWords {i : Instr} {s : State} {rest : List EventWord}
    (hin : s.input = portWords s.cfg i ++ rest) :
    (∃ o, runSteps (portWords s.cfg i).length s =
      .next ((runEvents (traceOf s.cfg i) s).1.withPorts rest o)) ∧
    (observe (portWords s.cfg i).length s).flatMap Observation.emitted =
      (runEvents (traceOf s.cfg i) s).2 := by
  have hrun := runSteps_of_input hin
  rwa [show (portWords s.cfg i).flatMap events = traceOf s.cfg i from flatMap_events_word _] at hrun

/-- Settles O57: both are the run of the instruction's trace. -/
theorem portWordsRunThePseudoInstruction : Obligations.PortWordsRunThePseudoInstruction := by
  intro s i rest hi hin
  obtain ⟨⟨o, hrun⟩, hobs⟩ := runSteps_portWords hin
  exact ⟨_, _, hrun, exec_of_isPseudo hi s, rfl, hobs.trans (emissionsOf_emittingAll _).symm⟩

/-! ### Placed table words -/

/-- The byte class depends on the configuration's sentinels alone (R71). -/
theorem byteClass_congr {c d : Config} (hh : c.header = d.header) (hf : c.footer = d.footer) (f : FState)
    (b : Byte) : byteClass c f b = byteClass d f b := by
  cases f <;> simp only [byteClass, hh, hf]

/-- The wire patterns depend on the configuration's sentinels alone (R79). -/
theorem decodeWire_congr {c d : Config} (hh : c.header = d.header) (hf : c.footer = d.footer)
    (bytes : List Byte) : decodeWire c bytes = decodeWire d bytes := by
  simp only [decodeWire, hh, hf]

/-- R79: wire bytes decode only to a pseudo-instruction whose expansion they are. -/
theorem trace_of_decodeWire {c : Config} {bytes : List Byte} {i : Instr}
    (h : decodeWire c bytes = .ok i) : i.IsPseudo ∧ traceOf c i = bytes.map Event.rxByte := by
  unfold decodeWire at h
  split at h
  · cases h
  · split at h
    · next hheader =>
      subst hheader
      split at h
      · next hfooter =>
        subst hfooter
        cases h
        exact ⟨.inl ⟨_, rfl⟩, rfl⟩
      · cases h
        exact ⟨.inr (.inl ⟨_, _, rfl⟩), rfl⟩
    · split at h
      · cases h
        exact ⟨.inr (.inr ⟨_, rfl⟩), rfl⟩
      · cases h
  · split at h
    · cases h
      exact ⟨.inr (.inr ⟨_, rfl⟩), rfl⟩
    · cases h

/-- The low byte of a word comes last in its table bytes. -/
theorem tableBytes_snoc (n x : Nat) (b : Byte) :
    tableBytes (n + 1) (x * 256 + b.toNat) = tableBytes n x ++ [b] := by
  have hb := b.isLt
  induction n with
  | zero =>
    have hlow : BitVec.ofNat 8 (x * 256 + b.toNat) = b := BitVec.eq_of_toNat_eq (by simp; omega)
    simp [tableBytes, hlow]
  | succ n ih =>
    have hdiv : (x * 256 + b.toNat) / 256 ^ (n + 1) = x / 256 ^ n := by
      rw [Nat.pow_succ', ← Nat.div_div_eq_div_mul, show (x * 256 + b.toNat) / 256 = x by omega]
    rw [tableBytes, hdiv, ih]
    rfl

theorem toNat_append_byte {n : Nat} (x : BitVec n) (b : Byte) :
    (x ++ b).toNat = x.toNat * 256 + b.toNat := by
  rw [BitVec.toNat_append, ← Nat.shiftLeft_add_eq_or_of_lt b.isLt, Nat.shiftLeft_eq]

/-- R70: the bytes of a 48-bit pattern, leftmost first. -/
theorem tableBytes_append (h b s e c g : Byte) :
    tableBytes 6 (h ++ b ++ s ++ e ++ c ++ g).toNat = [h, b, s, e, c, g] := by
  have hfirst : tableBytes 1 h.toNat = [h] := by simp [tableBytes]
  simp only [toNat_append_byte, tableBytes_snoc, hfirst, List.cons_append, List.nil_append]

/-- A 48-bit table word is read as its six wire bytes. -/
theorem decodeTableWord_wire {w : Nat} (hw : w < 2 ^ 48) :
    decodeTableWord 48 w = (decodeWire Config.implementation (tableBytes 6 w)).toOption :=
  if_pos hw

/-- R70, R79: the frame pattern as a table word. -/
theorem decodeTableWord_frame (t : Angles) (g : Byte) :
    decodeTableWord 48 ((0xFF : Byte) ++ t.base ++ t.shoulder ++ t.elbow ++ t.claw ++ g).toNat
      = some (if g = 0xFE then .frame t else .badFrame t g) := by
  rw [decodeTableWord_wire (BitVec.isLt _), tableBytes_append]
  by_cases hg : g = 0xFE
  · subst hg; rfl
  · rw [if_neg hg]
    exact congrArg Except.toOption (if_neg hg)

/-- A 16-bit table word decodes to the first of its events. -/
theorem decodeTableWord_event {w : Nat} {e : Event} {es : List Event} (hw : w < 2048)
    (he : events (BitVec.ofNat 11 w) = e :: es) : decodeTableWord 16 w = some e.instr := by
  have hread : decodeTableWord 16 w = ((events (BitVec.ofNat 11 w)).map Event.instr).head? :=
    if_pos hw
  rw [hread, he]
  rfl

/-- The step on a placed 16-bit table word runs the word's events (log entry 1). -/
theorem step_withFetchWord_event (s : State) (w : Nat) :
    step (s.withFetchWord 16 w) = execEvents (events (BitVec.ofNat 11 w)) s := rfl

/-- The step on a placed 8-bit table word is `RXBYTE` in the state the table gives it (log entry 13). -/
theorem step_withFetchWord_byte (s : State) (w : Nat) :
    step (s.withFetchWord 8 w) =
      exec (.rxByte (BitVec.ofNat 8 w)) { s with fstate := tableState (BitVec.ofNat 8 w) } := by
  have hstep : step (s.withFetchWord 8 w) =
      execEvents (events (Event.word (.rxByte (BitVec.ofNat 8 w))))
        { s with fstate := tableState (BitVec.ofNat 8 w) } := rfl
  rw [hstep, events_word, execEvents_singleton]
  rfl

/-- A 48-bit table word is read only as a pseudo-instruction whose port words it is placed as. -/
theorem tableWords_of_decodeTableWord {c : Config} {w : Nat} {i : Instr} (hh : c.header = 0xFF)
    (hf : c.footer = 0xFE) (h : decodeTableWord 48 w = some i) :
    i.IsPseudo ∧ tableWords 48 w = portWords c i := by
  by_cases hw : w < 2 ^ 48
  case neg => exact absurd (h.symm.trans (if_neg hw)) (by simp)
  case pos =>
    rw [decodeTableWord_wire hw, decodeWire_congr (d := c) hh.symm hf.symm] at h
    cases hwire : decodeWire c (tableBytes 6 w) with
    | error x => rw [hwire] at h; cases h
    | ok j =>
      rw [hwire] at h
      obtain rfl : j = i := Option.some.inj h
      obtain ⟨hpseudo, htrace⟩ := trace_of_decodeWire hwire
      refine ⟨hpseudo, ?_⟩
      rw [portWords, htrace, List.map_map]
      rfl

/-- Settles O5: a placed word is presented as its own events, its byte, or the port words of the
pseudo-instruction it decodes to. -/
theorem placedTableWordRunsNext : Obligations.PlacedTableWordRunsNext := by
  refine ⟨fun s w e hw he => ?_, fun s w e f hw he => ?_, fun s w hw hh hf => ?_,
    decodeTableWord_frame, fun s w i hh hf hdec => ?_, fun nbits w h8 h16 h48 => ?_⟩
  · rw [step_withFetchWord_event, he, execEvents_singleton]
    exact ⟨decodeTableWord_event hw he, rfl⟩
  · rw [step_withFetchWord_event, he, execEvents_pair]
    exact ⟨decodeTableWord_event hw he, rfl⟩
  · refine ⟨_, if_pos hw, ?_⟩
    rw [step_withFetchWord_byte, rxByteRunsItsByteClass]
    exact congrArg (exec · _) (byteClass_congr hh hf _ _)
  · obtain ⟨hpseudo, hwords⟩ := tableWords_of_decodeTableWord hh hf hdec
    have hin : (s.withFetchWord 48 w).input = portWords s.cfg i ++ s.input := congrArg (· ++ s.input) hwords
    have hsix : (portWords s.cfg i).length = 6 := by rw [← hwords]; rfl
    obtain ⟨⟨o, hrun⟩, hobs⟩ := runSteps_portWords (s := s.withFetchWord 48 w) hin
    have hexec := exec_withPorts hpseudo (s.withFetchWord 48 w) s.input s.out
    exact ⟨_, _, hsix ▸ hrun, hexec, rfl, (hsix ▸ hobs).trans (emissionsOf_emittingAll _).symm⟩
  · simp [decodeTableWord, h8, h16, h48]

end Sys2Proof

/-! The statements of 40_frame_decoder.md: which byte is of which class and what each class does (R101 to R108),
and the path of a frame through the decoder, six bytes long (R109, R110). -/

namespace Sys2Proof.Machine

/-! ### When a byte class is selected -/

/-- R71: the five classes a byte can be of, each with the state and the comparison that select it. -/
theorem byteClass_cases (c : Config) (f : FState) (b : Byte) :
    (f = .idle ∧ b = c.header ∧ byteClass c f b = .idleHeader) ∨
    (f = .idle ∧ b ≠ c.header ∧ byteClass c f b = .idleDiscard b) ∨
    (∃ n, f = .collecting n ∧ byteClass c f b = .collect n b) ∨
    (f = .awaitFooter ∧ b = c.footer ∧ byteClass c f b = .footerAccept) ∨
    (f = .awaitFooter ∧ b ≠ c.footer ∧ byteClass c f b = .footerReject b) := by
  cases f with
  | idle =>
    rcases eq_or_ne b c.header with hb | hb
    · exact .inl ⟨rfl, hb, if_pos hb⟩
    · exact .inr (.inl ⟨rfl, hb, byteClass_discard hb⟩)
  | collecting n => exact .inr (.inr (.inl ⟨n, rfl, rfl⟩))
  | awaitFooter =>
    rcases eq_or_ne b c.footer with hb | hb
    · exact .inr (.inr (.inr (.inl ⟨rfl, hb, if_pos hb⟩)))
    · exact .inr (.inr (.inr (.inr ⟨rfl, hb, byteClass_reject hb⟩)))

section
variable (c : Config) (f : FState) (n : Fin 4) (b : Byte)

theorem byteClass_eq_idleHeader_iff : byteClass c f b = .idleHeader ↔ f = .idle ∧ b = c.header := by
  rcases byteClass_cases c f b with
    ⟨hf, hb, h⟩ | ⟨hf, hb, h⟩ | ⟨m, hf, h⟩ | ⟨hf, hb, h⟩ | ⟨hf, hb, h⟩ <;> rw [h] <;> simp [*]

theorem byteClass_eq_idleDiscard_iff : byteClass c f b = .idleDiscard b ↔ f = .idle ∧ b ≠ c.header := by
  rcases byteClass_cases c f b with
    ⟨hf, hb, h⟩ | ⟨hf, hb, h⟩ | ⟨m, hf, h⟩ | ⟨hf, hb, h⟩ | ⟨hf, hb, h⟩ <;> rw [h] <;> simp [*]

theorem byteClass_eq_collect_iff : byteClass c f b = .collect n b ↔ f = .collecting n := by
  rcases byteClass_cases c f b with
    ⟨hf, hb, h⟩ | ⟨hf, hb, h⟩ | ⟨m, hf, h⟩ | ⟨hf, hb, h⟩ | ⟨hf, hb, h⟩ <;> rw [h] <;> simp [*]

theorem byteClass_eq_footerAccept_iff :
    byteClass c f b = .footerAccept ↔ f = .awaitFooter ∧ b = c.footer := by
  rcases byteClass_cases c f b with
    ⟨hf, hb, h⟩ | ⟨hf, hb, h⟩ | ⟨m, hf, h⟩ | ⟨hf, hb, h⟩ | ⟨hf, hb, h⟩ <;> rw [h] <;> simp [*]

theorem byteClass_eq_footerReject_iff :
    byteClass c f b = .footerReject b ↔ f = .awaitFooter ∧ b ≠ c.footer := by
  rcases byteClass_cases c f b with
    ⟨hf, hb, h⟩ | ⟨hf, hb, h⟩ | ⟨m, hf, h⟩ | ⟨hf, hb, h⟩ | ⟨hf, hb, h⟩ <;> rw [h] <;> simp [*]

end

/-! ### The byte classes, counted -/

theorem length_allBytes : allBytes.length = 256 := by simp [allBytes]

theorem mem_allBytes (b : Byte) : b ∈ allBytes :=
  List.mem_map.mpr ⟨b.toNat, List.mem_range.mpr b.isLt, by simp⟩

theorem nodup_allBytes : allBytes.Nodup := by
  refine List.Nodup.map_on (fun x hx y hy hxy => ?_) List.nodup_range
  have hlt := And.intro (List.mem_range.mp hx) (List.mem_range.mp hy)
  have hval := congrArg BitVec.toNat hxy
  simp only [BitVec.toNat_ofNat] at hval
  omega

section
variable {P : Byte → Prop} [DecidablePred P]

/-- R108: a class that one byte value alone selects. -/
theorem count_allBytes_eq (a : Byte) (h : ∀ b, P b ↔ b = a) :
    (allBytes.filter (fun b => decide (P b))).length = 1 := by
  simp only [h]
  rw [← List.countP_eq_length_filter]
  exact List.count_eq_one_of_mem nodup_allBytes (mem_allBytes a)

/-- R108: a class that every byte value but one selects. -/
theorem count_allBytes_ne (a : Byte) (h : ∀ b, P b ↔ b ≠ a) :
    (allBytes.filter (fun b => decide (P b))).length = 255 := by
  have hone : (allBytes.filter (fun b => decide (¬ P b))).length = 1 :=
    count_allBytes_eq a fun b => (not_congr (h b)).trans not_not
  have hsum := List.length_eq_countP_add_countP (fun b => decide (P b)) (l := allBytes)
  simp only [← List.countP_eq_length_filter, length_allBytes, decide_not, decide_eq_true_eq] at hone hsum ⊢
  omega

/-- R108: a class that every byte value selects. -/
theorem count_allBytes_all (h : ∀ b, P b) :
    (allBytes.filter (fun b => decide (P b))).length = 256 := by
  simp [h, length_allBytes]

end

/-- Settles O6: one byte value is the sentinel and the others are not, and `Collecting(n)` takes every byte. -/
theorem byteClassCounts : Obligations.ByteClassCounts := by
  intro c
  exact ⟨count_allBytes_eq c.header fun b => by simp [byteClass_eq_idleHeader_iff],
    count_allBytes_ne c.header fun b => by simp [byteClass_eq_idleDiscard_iff],
    fun n => count_allBytes_all fun b => by simp [byteClass_eq_collect_iff],
    count_allBytes_eq c.footer fun b => by simp [byteClass_eq_footerAccept_iff],
    count_allBytes_ne c.footer fun b => by simp [byteClass_eq_footerReject_iff]⟩

/-! ### What each byte class does -/

/-- R103: the successor of `Collecting(n)` before the last position. -/
theorem afterCollect_of_lt {n : Fin 4} (h : n.val + 1 < 4) :
    afterCollect n = .collecting ⟨n.val + 1, h⟩ := dif_pos h

/-- R103: the successor of `Collecting(n)` at the last position. -/
theorem afterCollect_of_last {n : Fin 4} (h : n.val + 1 = 4) : afterCollect n = .awaitFooter :=
  dif_neg h.not_lt

@[simp] theorem quadGet_storePayload_same (n : Fin 4) (b : Byte) (p : Quad Byte) :
    quadGet (storePayload n b p) (positionChannel n) = b := quadGet_quadSet_same _ _ _

theorem quadGet_storePayload_other {n k : Fin 4} (b : Byte) (p : Quad Byte) (h : k ≠ n) :
    quadGet (storePayload n b p) (positionChannel k) = quadGet p (positionChannel k) :=
  quadGet_quadSet_other _ _ (positionChannel_ne h)

/-- Settles O9, by the selection of the class; the effect is the pseudocode of R101. -/
theorem idleHeaderOpensFrame : Obligations.IdleHeaderOpensFrame :=
  ⟨byteClass_eq_idleHeader_iff, fun _ _ => rfl⟩

/-- Settles O10: `FOOTER` is among the discarded bytes as it is not `HEADER` (R9), and a run of such bytes goes
byte by byte. -/
theorem idleDiscardWritesNothing : Obligations.IdleDiscardWritesNothing :=
  ⟨byteClass_eq_idleDiscard_iff, fun c => byteClass_discard (header_ne_footer c).symm,
    fun _ _ _ _ => rfl, fun _ _ hf hall => runBytes_garbage hf hall⟩

/-- Settles O11: the store is a write of one register of the payload, which keeps the other three. -/
theorem collectStoresOnePosition : Obligations.CollectStoresOnePosition :=
  ⟨byteClass_eq_collect_iff, fun s n b _ => ⟨storePayload n b s.payload, afterCollect n, rfl,
    quadGet_storePayload_same n b s.payload, fun _ hk => quadGet_storePayload_other b s.payload hk,
    afterCollect_of_last, fun h => afterCollect_of_lt h⟩⟩

/-- Settles O12: the `APPLY` in the same step is the three writes of `applyTuple_eq`. -/
theorem footerAcceptEmitsAndApplies : Obligations.FooterAcceptEmitsAndApplies := by
  refine ⟨byteClass_eq_footerAccept_iff, fun s _ => ?_⟩
  have hexec : exec .footerAccept s =
      .next (emitting (applyTuple s.payload { s with fstate := .idle }, some s.payload)) := rfl
  rw [hexec, applyTuple_eq]
  rfl

/-- Settles O13: `HEADER` is among the rejected bytes as it is not `FOOTER` (R9). -/
theorem footerRejectOnlyReturnsToIdle : Obligations.FooterRejectOnlyReturnsToIdle :=
  ⟨byteClass_eq_footerReject_iff, fun c => byteClass_reject (header_ne_footer c), fun _ _ _ _ => rfl⟩

/-- Settles O14, by the decoder's state: each state's row of the table reads its own sentinel at most. -/
theorem sentinelsAreDataInPayload : Obligations.SentinelsAreDataInPayload := by
  refine ⟨fun c d f p b hf hfooter => ?_, fun c d f p b hf hheader => ?_, fun c d n p q a b => rfl⟩
  · cases f with
    | idle => exact absurd rfl hf
    | collecting n => rfl
    | awaitFooter => rw [decodeByte, decodeByte, hfooter]
  · cases f with
    | idle => rw [decodeByte, decodeByte, hheader]
    | collecting n => rfl
    | awaitFooter => exact absurd rfl hf

theorem exec_rxByte (b : Byte) (s : State) :
    exec (.rxByte b) s = .next (emitting (receive b s)) := exec_event (.rxByte b) s

/-- R107: a byte that is no `FOOTER` in `AwaitFooter` emits nothing and moves the decoder's two registers alone,
from `AwaitFooter` to `Idle`. -/
theorem receive_of_not_accepted {b : Byte} {s : State}
    (h : ¬ (s.fstate = .awaitFooter ∧ b = s.cfg.footer)) :
    ∃ f p, receive b s = ({ s with fstate := f, payload := p }, none) ∧
      (s.fstate = .awaitFooter → f = .idle) := by
  rcases receive_cases b s with
    ⟨hf, -, hr⟩ | ⟨hf, -, hr⟩ | ⟨n, hf, hr⟩ | ⟨hf, hb, -⟩ | ⟨-, -, hr⟩
  · exact ⟨_, _, hr, fun hw => by simp [hf] at hw⟩
  · exact ⟨_, _, hr, fun hw => by simp [hf] at hw⟩
  · exact ⟨_, _, hr, fun hw => by simp [hf] at hw⟩
  · exact absurd ⟨hf, hb⟩ h
  · exact ⟨_, _, hr, fun _ => rfl⟩

/-- Settles O15: of the five things a byte can do, one alone reaches past the decoder. -/
theorem unacceptedByteTouchesOnlyDecoder : Obligations.UnacceptedByteTouchesOnlyDecoder := by
  refine ⟨fun s b h => ?_, fun s b hf hb => ?_⟩
  · obtain ⟨f, p, hr, hidle⟩ := receive_of_not_accepted h
    exact ⟨f, p, by rw [exec_rxByte, hr]; rfl, hidle⟩
  · rw [exec_rxByte, receive_accept hf hb, applyTuple_eq]
    rfl

/-! ### The position in the frame -/

/-- How many bytes of the frame in progress have come: 0 in `Idle`, and 5 when only the footer is missing
(R109). -/
def framePosition : FState → Nat
  | .idle => 0
  | .collecting n => n.val + 1
  | .awaitFooter => 5

theorem framePosition_le (f : FState) : framePosition f ≤ 5 := by
  cases f with
  | idle => exact Nat.zero_le 5
  | collecting n => exact Nat.succ_le_succ n.isLt.le
  | awaitFooter => exact le_rfl

theorem framePosition_eq_zero_iff (f : FState) : framePosition f = 0 ↔ f = .idle := by
  cases f <;> simp [framePosition]

theorem framePosition_afterCollect (n : Fin 4) : framePosition (afterCollect n) = n.val + 2 := by
  revert n
  decide

/-- R109: inside a frame every byte, whatever it is, moves the decoder one position on, and the sixth back to
`Idle`. -/
theorem framePosition_receive {s : State} (b : Byte) (hf : s.fstate ≠ .idle) :
    framePosition (receive b s).1.fstate = (framePosition s.fstate + 1) % 6 := by
  rcases receive_cases b s with
    ⟨hi, -, -⟩ | ⟨hi, -, -⟩ | ⟨n, hn, hr⟩ | ⟨hw, -, hr⟩ | ⟨hw, -, hr⟩
  · exact absurd hi hf
  · exact absurd hi hf
  · rw [hr, hn, framePosition_afterCollect, framePosition]
    omega
  · rw [hr, hw]; rfl
  · rw [hr, hw]; rfl

/-- A run of two byte sequences is the run of the second after the first. -/
theorem runBytes_append (xs ys : List Byte) (s : State) :
    runBytes (xs ++ ys) s =
      ((runBytes ys (runBytes xs s).1).1, (runBytes xs s).2 ++ (runBytes ys (runBytes xs s).1).2) := by
  simp only [runBytes, List.map_append, runEvents_append]

/-- R109: up to the end of the frame, the position counts the bytes. -/
theorem framePosition_runBytes {s : State} {bytes : List Byte} (hf : s.fstate ≠ .idle)
    (hlen : framePosition s.fstate + bytes.length ≤ 6) :
    framePosition (runBytes bytes s).1.fstate = (framePosition s.fstate + bytes.length) % 6 := by
  have hpos := mt (framePosition_eq_zero_iff s.fstate).mp hf
  induction bytes using List.reverseRecOn with
  | nil =>
    exact (Nat.mod_eq_of_lt (Nat.lt_succ_of_le (framePosition_le s.fstate))).symm
  | append_singleton xs b ih =>
    rw [List.length_append, List.length_singleton] at hlen ⊢
    have hxs := ih (by omega)
    have hin : (runBytes xs s).1.fstate ≠ .idle := fun hi => by
      rw [(framePosition_eq_zero_iff _).mpr hi] at hxs
      omega
    have hlast := framePosition_receive b hin
    rw [runBytes_append, runBytes_cons, runBytes_nil, hlast, hxs]
    omega

/-- Settles O18: the `HEADER` leads to position 1, and each further byte one position on, modulo 6. -/
theorem framePathIsSixBytes : Obligations.FramePathIsSixBytes := by
  intro s bytes hf hlen
  have hpath (xs : List Byte) (hxs : xs.length ≤ 5) :
      framePosition (runBytes (s.cfg.header :: xs) s).1.fstate = (1 + xs.length) % 6 := by
    rw [runBytes_cons, receive_header hf rfl]
    exact framePosition_runBytes (by simp) (Nat.add_le_add_left hxs 1)
  refine ⟨fun k hk hidle => ?_, ?_⟩
  · have hpos := hpath (bytes.take k) (by simp; omega)
    rw [(framePosition_eq_zero_iff _).mpr hidle, List.length_take] at hpos
    omega
  · rw [← framePosition_eq_zero_iff, hpath bytes hlen.le, hlen]

/-! ### At most one emission per six bytes -/

/-- R109: an emission costs the six positions of a frame, and a byte gains one position at most. -/
theorem six_mul_emissions_receive (b : Byte) (s : State) :
    6 * (receive b s).2.toList.length + framePosition (receive b s).1.fstate ≤
      1 + framePosition s.fstate := by
  rcases receive_cases b s with
    ⟨hf, -, hr⟩ | ⟨hf, -, hr⟩ | ⟨n, hf, hr⟩ | ⟨hf, -, hr⟩ | ⟨hf, -, hr⟩ <;> rw [hr]
  case inr.inr.inl =>
    rw [hf, framePosition_afterCollect]
    simp only [framePosition, Option.toList_none, List.length_nil]
    omega
  all_goals simp [hf, framePosition]

/-- The same of every event: one that is no byte emits nothing and gains no position. -/
theorem six_mul_emissions_stepEvent (e : Event) (s : State) :
    6 * (stepEvent e s).2.toList.length + framePosition (stepEvent e s).1.fstate ≤
      (bytesOf [e]).length + framePosition s.fstate := by
  cases e with
  | reset => simp [bytesOf, framePosition]
  | rxByte b => exact six_mul_emissions_receive b s
  | boundary => simp [bytesOf]
  | nop => simp [bytesOf]

theorem bytesOf_cons (e : Event) (es : List Event) : bytesOf (e :: es) = bytesOf [e] ++ bytesOf es := by
  cases e <;> rfl

/-- The same of every trace, with the position as the potential. -/
theorem six_mul_emissions_runEvents (es : List Event) (s : State) :
    6 * (runEvents es s).2.length + framePosition (runEvents es s).1.fstate ≤
      (bytesOf es).length + framePosition s.fstate := by
  induction es generalizing s with
  | nil => simp
  | cons e es ih =>
    have hhead := six_mul_emissions_stepEvent e s
    have htail := ih (stepEvent e s).1
    rw [bytesOf_cons]
    simp only [runEvents_cons, List.length_append]
    omega

/-- Settles O19: the trace starts at position 5 at most. -/
theorem atMostOneEmissionPerSixBytes : Obligations.AtMostOneEmissionPerSixBytes := by
  intro es s
  have hrun := six_mul_emissions_runEvents es s
  have hstart := framePosition_le s.fstate
  omega

/-! ### The payload bytes of a frame -/

/-- Settles O20, byte by byte: each is stored at its own position, which the later ones keep. -/
theorem stalledFrameSwallowsBytes : Obligations.StalledFrameSwallowsBytes := by
  intro s n bytes hf hlen
  induction bytes generalizing s n with
  | nil => exact absurd hlen (by simp; omega)
  | cons b bs ih =>
    rw [List.length_cons] at hlen
    rcases Nat.lt_or_eq_of_le (Nat.succ_le_of_lt n.isLt) with hlt | hlast
    · obtain ⟨p, hrun, hkept, hstored⟩ :=
        ih { s with fstate := .collecting ⟨n.val + 1, hlt⟩, payload := storePayload n b s.payload }
          ⟨n.val + 1, hlt⟩ rfl (by simp only; omega)
      refine ⟨p, ?_, fun k hk => ?_, fun k hk => ?_⟩
      · rw [runBytes_cons, receive_collect hf, afterCollect_of_lt hlt, hrun]
        rfl
      · rw [hkept k (Nat.lt_succ_of_lt hk), quadGet_storePayload_other b _ hk.ne]
      · rcases eq_or_lt_of_le hk with rfl | hnk
        · rw [hkept n (Nat.lt_succ_self _), quadGet_storePayload_same, Nat.sub_self]
          rfl
        · have hnext : k.val - n.val = k.val - (n.val + 1) + 1 := by omega
          rw [hnext, List.getElem?_cons_succ]
          exact hstored k hnk
    · obtain rfl : bs = [] := List.eq_nil_of_length_eq_zero (by omega)
      refine ⟨storePayload n b s.payload, ?_, fun k hk => ?_, fun k hk => ?_⟩
      · rw [runBytes_cons, receive_collect hf, afterCollect_of_last hlast]
        rfl
      · exact quadGet_storePayload_other b _ hk.ne
      · obtain rfl : n = k := Fin.ext (by omega)
        rw [quadGet_storePayload_same, Nat.sub_self]
        rfl

/-- R110 at `n = 0`: the four bytes after a `HEADER` are the new payload. -/
theorem runBytes_tuple {s : State} (t : Angles) (hf : s.fstate = .collecting 0) :
    runBytes [t.base, t.shoulder, t.elbow, t.claw] s =
      ({ s with fstate := .awaitFooter, payload := t }, []) := by
  obtain ⟨p, hrun, -, hstored⟩ :=
    stalledFrameSwallowsBytes s 0 [t.base, t.shoulder, t.elbow, t.claw] hf rfl
  have hp : t = p := quad_ext fun
    | .base => Option.some.inj (hstored 0 (Fin.zero_le _))
    | .shoulder => Option.some.inj (hstored 1 (Fin.zero_le _))
    | .elbow => Option.some.inj (hstored 2 (Fin.zero_le _))
    | .claw => Option.some.inj (hstored 3 (Fin.zero_le _))
  rw [hrun, hp]

/-- R109: from `Idle` the first five bytes of a frame lead to `AwaitFooter` with its tuple in `payload`, so what
the frame does is up to its last byte. -/
theorem runBytes_frameBytes {s : State} (t : Angles) (g : Byte) (hf : s.fstate = .idle) :
    runBytes (frameBytes s.cfg t g) s =
      runBytes [g] { s with fstate := .awaitFooter, payload := t } := by
  have hsplit : frameBytes s.cfg t g =
      s.cfg.header :: ([t.base, t.shoulder, t.elbow, t.claw] ++ [g]) := rfl
  rw [hsplit, runBytes_cons, receive_header hf rfl, runBytes_append, runBytes_tuple t rfl]
  rfl

/-- Settles O25: the footer is accepted with the tuple as the payload. -/
theorem frameFromIdleIsApplied : Obligations.FrameFromIdleIsApplied := by
  intro s t hf
  have hexec : exec (.frame t) s =
      .next (emittingAll (runBytes (frameBytes s.cfg t s.cfg.footer) s)) := rfl
  have haccept := receive_accept (s := { s with fstate := .awaitFooter, payload := t }) rfl rfl
  rw [hexec, runBytes_frameBytes t _ hf, runBytes_cons, haccept, applyTuple_eq, ← hf]
  rfl

/-- Settles O26: the wrong footer is rejected with the tuple in the payload. -/
theorem badFrameFromIdleIsDropped : Obligations.BadFrameFromIdleIsDropped := by
  intro s t g hf hg
  have hexec : exec (.badFrame t g) s = .next (emittingAll (runBytes (frameBytes s.cfg t g) s)) := rfl
  have hreject := receive_reject (s := { s with fstate := .awaitFooter, payload := t }) rfl hg
  rw [hexec, runBytes_frameBytes t g hf, runBytes_cons, hreject, ← hf]
  rfl

end Sys2Proof.Machine

/-! The statements of 41_duty_mapper.md: the four mapper functions as instructions (R120, R121, R122, R128), and the
range (R125) and the monotonicity (R126) of what they answer. -/

namespace Sys2Proof.Machine

/-! ### `CLAMP` -/

theorem clampAngle_mono {a b : Nat} (h : a ≤ b) : clampAngle a ≤ clampAngle b :=
  min_le_min_right Config.angleMax h

/-- Settles O28: what is clamped is in range already, so a second clamp leaves it. -/
theorem clampIsMinimumWith180 : Obligations.ClampIsMinimumWith180 :=
  ⟨fun _ _ => rfl, fun n => clampAngle_of_le (clampAngle_le n)⟩

/-! ### `TICKS` -/

section
variable (c : Config) (ch : Channel)

theorem ticksOf_zero : ticksOf c ch 0 = quadGet c.minTicks ch := by simp [ticksOf]

/-- R121: the division is exact at 180, and the span is no truncated difference (R9(b)). -/
theorem ticksOf_angleMax : ticksOf c ch Config.angleMax = quadGet c.maxTicks ch := by
  have hexact : Config.angleMax * spanOf c ch / Config.fullScale = spanOf c ch :=
    Nat.mul_div_cancel_left _ (by decide)
  rw [ticksOf, hexact, spanOf, Nat.add_sub_cancel' (minTicks_le_maxTicks c ch)]

theorem ticksOf_mono {a b : Nat} (h : a ≤ b) : ticksOf c ch a ≤ ticksOf c ch b :=
  Nat.add_le_add_left (Nat.div_le_div_right (Nat.mul_le_mul_right _ h)) _

theorem minTicks_le_ticksOf (a : Nat) : quadGet c.minTicks ch ≤ ticksOf c ch a := Nat.le_add_right _ _

theorem ticksOf_le_maxTicks {a : Nat} (h : a ≤ Config.angleMax) :
    ticksOf c ch a ≤ quadGet c.maxTicks ch :=
  (ticksOf_mono c ch h).trans_eq (ticksOf_angleMax c ch)

/-- R121: half the input range gives half the span, rounded down. -/
theorem ticksOf_half : ticksOf c ch 90 = quadGet c.minTicks ch + spanOf c ch / 2 :=
  congrArg (quadGet c.minTicks ch + ·) (Nat.mul_div_mul_left (spanOf c ch) 2 (by decide : 0 < 90))

theorem ticksOf_of_span_zero (h : spanOf c ch = 0) (a : Nat) :
    ticksOf c ch a = quadGet c.minTicks ch := by
  simp [ticksOf, h]

/-- R121: a span below the divisor gives the angles 0 and 1 the same ticks. -/
theorem ticksOf_one_of_span_lt (h : spanOf c ch < Config.fullScale) :
    ticksOf c ch 1 = ticksOf c ch 0 := by
  rw [ticksOf_zero, ticksOf, one_mul, Nat.div_eq_of_lt h, add_zero]

end

/-- Settles O29: one lemma on `ticksOf` for each corner case. The instruction's own equation needs no bound on the
angle; the bound is the operand range of R121. -/
theorem ticksIsLinearMap : Obligations.TicksIsLinearMap := by
  refine ⟨fun _ _ _ _ => rfl, fun c ch => ⟨ticksOf_zero c ch, ticksOf_angleMax c ch, ticksOf_half c ch,
    fun heq => ?_, fun hlt => ?_⟩⟩
  · exact ticksOf_of_span_zero c ch (Nat.sub_eq_zero_of_le heq.le)
  · exact ⟨0, by decide, (ticksOf_one_of_span_lt c ch hlt).symm⟩

/-! ### `REGVAL` -/

section
variable (c : Config) (ch : Channel)

/-- R122: from 180 upward the register value is the channel's smallest. -/
theorem regvalOf_of_ge {a : Byte} (h : Config.angleMax ≤ a.toNat) :
    regvalOf c ch a = c.periodTicks - quadGet c.maxTicks ch := by
  rw [regvalOf, angleOf, clampAngle_of_ge h, ticksOf_angleMax]

theorem regvalOf_eq_of_ge {a b : Byte} (ha : Config.angleMax ≤ a.toNat) (hb : Config.angleMax ≤ b.toNat) :
    regvalOf c ch a = regvalOf c ch b :=
  (regvalOf_of_ge c ch ha).trans (regvalOf_of_ge c ch hb).symm

/-- The complement turns the order of the ticks around. -/
theorem regvalOf_anti {a b : Byte} (h : a.toNat ≤ b.toNat) : regvalOf c ch b ≤ regvalOf c ch a :=
  Nat.sub_le_sub_left (ticksOf_mono c ch (clampAngle_mono h)) _

end

/-- Settles O30: the complement of the smallest ticks at 0 and of the largest from 180 upward. -/
theorem regvalIsComplement : Obligations.RegvalIsComplement :=
  ⟨fun _ _ _ => rfl, fun c ch =>
    ⟨regvalOf_zero c ch, fun _ ha => regvalOf_of_ge c ch ha,
      regvalOf_eq_of_ge c ch (by decide) (by decide), regvalOf_eq_of_ge c ch (by decide) (by decide)⟩⟩

/-- Settles O32: the bounds on the ticks, complemented, and R9(c) for the width. -/
theorem mapperStaysInRange : Obligations.MapperStaysInRange := by
  intro c ch a
  have hlo : quadGet c.minTicks ch ≤ ticksOf c ch (clampAngle a.toNat) := minTicks_le_ticksOf c ch _
  have hhi : ticksOf c ch (clampAngle a.toNat) ≤ quadGet c.maxTicks ch :=
    ticksOf_le_maxTicks c ch (clampAngle_le _)
  have hperiod : regvalOf c ch a ≤ c.periodTicks := regvalOf_le_periodTicks c ch a
  exact ⟨hlo, hhi, Nat.sub_le_sub_left hhi _, Nat.sub_le_sub_left hlo _, hperiod,
    hperiod.trans_lt (periodTicks_lt c)⟩

/-- Settles O33: clamp, scale and offset keep the order, and the complement reverses it. -/
theorem mapperIsMonotone : Obligations.MapperIsMonotone := fun c ch =>
  ⟨fun _ _ hab _ => ticksOf_mono c ch hab, fun _ _ hab => regvalOf_anti c ch hab,
    fun _ ha => regvalOf_eq_of_ge c ch ha (by decide)⟩

/-! ### `MAP4` -/

/-- Settles O31: each lane is `REGVAL` of its own angle. -/
theorem mapFourIsFourLanes : Obligations.MapFourIsFourLanes := by
  refine ⟨fun _ _ _ _ _ => rfl, fun c t u ch hlane => ?_⟩
  rw [quadGet_map4Of, quadGet_map4Of, hlane]

end Sys2Proof.Machine

/-! The statements of 42_commit_synchronizer.md: what each operation of the synchronizer does (R140 to R143), that the
outputs change at a boundary or a reset alone (R144), that they show one tuple (R145, R150), and the mixture that
`APPLY` as one instruction excludes (R149). -/

namespace Sys2Proof.Machine

/-! ### The operations as instructions -/

theorem exec_stage (ch : Channel) (v : Nat) (s : State) :
    exec (.stage ch v) s = .next { s with shadow := quadSet s.shadow ch v, out := [] } := rfl

theorem exec_commit (s : State) : exec .commit s = .next { s with syncPending := true, out := [] } := rfl

theorem exec_apply (t : Angles) (s : State) :
    exec (.apply t) s =
      .next { s with cmd := t, shadow := map4Of s.cfg t, syncPending := true, out := [] } := by
  have harm : exec (.apply t) s = .next (silent (applyTuple t s)) := rfl
  rw [harm, applyTuple_eq]
  rfl

theorem exec_boundary (s : State) :
    exec .boundary s =
      .next { s with
        live := if s.syncPending then s.shadow else s.live
        syncPending := false
        out := [] } := by
  have harm : exec .boundary s = .next (silent (transfer s)) := rfl
  rw [harm, transfer_eq]
  rfl

/-- R142: with a trigger pending all four channels go over. -/
theorem exec_boundary_of_pending {s : State} (h : s.syncPending = true) :
    exec .boundary s = .next { s with live := s.shadow, syncPending := false, out := [] } := by
  rw [exec_boundary, if_pos h]

/-- R142: with no trigger pending nothing changes. -/
theorem exec_boundary_of_not_pending {s : State} (h : s.syncPending = false) :
    exec .boundary s = .next { s with out := [] } := by
  rw [exec_boundary, if_neg (by simp [h]), ← h]

/-- R143: the four stagings leave nothing of what was staged before. -/
theorem quadSet_all_eq_map4Of (q : Quad Nat) (c : Config) (t : Angles) :
    quadSet (quadSet (quadSet (quadSet q .base (regvalOf c .base t.base))
      .shoulder (regvalOf c .shoulder t.shoulder)) .elbow (regvalOf c .elbow t.elbow))
      .claw (regvalOf c .claw t.claw) = map4Of c t := rfl

/-! ### What the outputs show -/

/-- R122, R150: the complement of a register value gives back the ticks, none of which R9(b) lets exceed the
period. -/
theorem highTicks_regvalOf (c : Config) (ch : Channel) (a : Byte) :
    highTicks c (regvalOf c ch a) = ticksOf c ch (clampAngle a.toNat) := by
  have hmax : ticksOf c ch (clampAngle a.toNat) ≤ quadGet c.maxTicks ch :=
    ticksOf_le_maxTicks c ch (clampAngle_le _)
  exact Nat.sub_sub_self (hmax.trans (maxTicks_le_periodTicks c ch))

/-- Settles O34: the tuple is the one `live` shows by (I4). -/
theorem highTimeIsTicksOfOneTuple : Obligations.HighTimeIsTicksOfOneTuple := by
  intro s hs
  obtain ⟨t, hlive⟩ := hs.live_eq
  refine ⟨t, fun ch => ?_⟩
  rw [dutyOut, hlive, quadGet_map4Of, highTicks_regvalOf]

/-! ### When the outputs change -/

/-- R144: bytes alone never reach the outputs, however many frames they complete. -/
theorem runBytes_live (bytes : List Byte) (s : State) : (runBytes bytes s).1.live = s.live :=
  runEvents_live (by simp) s

/-- R144: every instruction keeps the outputs but a `RESET` and a `BOUNDARY` with a trigger pending. -/
theorem exec_live {i : Instr} {s t : State} (h : exec i s = .next t) (hreset : i ≠ .reset)
    (hboundary : i = .boundary → s.syncPending = false) : t.live = s.live := by
  cases i <;> obtain rfl := Host.Outcome.next.inj h
  case reset => exact absurd rfl hreset
  case boundary => simp [hboundary rfl]
  case rxByte b => exact receive_live b s
  case frame u => exact runBytes_live _ s
  case badFrame u g => exact runBytes_live _ s
  case garbage bytes => exact runBytes_live _ s
  all_goals rfl

/-- Settles O39, as the contrapositive of what keeps the outputs. -/
theorem liveChangesOnlyAtBoundaryOrReset : Obligations.LiveChangesOnlyAtBoundaryOrReset := by
  intro i s t hexec hchanged
  by_contra hno
  obtain ⟨hboundary, hreset⟩ := not_or.mp hno
  exact hchanged (exec_live hexec hreset fun hi => Bool.eq_false_of_not_eq_true fun hp => hboundary ⟨hi, hp⟩)

/-! ### Each operation -/

/-- Settles O35: a `STAGE` is a write of one register of `shadow`. The operand range of R140 is not needed. -/
theorem stageWritesOneShadow : Obligations.StageWritesOneShadow := by
  intro s ch v w _ _
  refine ⟨quadSet s.shadow ch v, quadSet s.shadow ch w, exec_stage ch v s, quadGet_quadSet_same _ _ _,
    fun k hk => quadGet_quadSet_other _ _ hk, ?_, exec_stage ch w s, fun hp => exec_boundary_of_not_pending hp⟩
  rw [exec_stage, quadSet_quadSet]

/-- Settles O36: the trigger is a flag, and the boundary after it finds it set. -/
theorem commitSetsTheTrigger : Obligations.CommitSetsTheTrigger := by
  intro s
  refine ⟨exec_commit s, exec_commit _, ?_⟩
  rw [exec_commit, andThen_next, exec_boundary_of_pending rfl]

/-- Settles O37: the four stagings come to `MAP4` of the tuple, whatever was staged. -/
theorem applyStagesTheWholeTuple : Obligations.ApplyStagesTheWholeTuple := by
  intro s t
  refine ⟨exec_apply t s, ?_⟩
  simp only [exec_stage, exec_commit, andThen_next, quadSet_all_eq_map4Of, exec_apply]

/-- Settles O38: the first boundary leaves no trigger for the second. -/
theorem boundaryTransfersWhenPending : Obligations.BoundaryTransfersWhenPending := by
  intro s
  refine ⟨exec_boundary s, ?_⟩
  rw [exec_boundary, andThen_next, exec_boundary_of_not_pending rfl]

/-! ### The mixture -/

/-- Settles O43: `STAGE` keeps the trigger, so a boundary after two of them transfers `shadow` as it stands. -/
theorem interleavedStagingWouldMix : Obligations.InterleavedStagingWouldMix := by
  intro s t u hp hshadow
  constructor
  · simp only [exec_stage, andThen_next, hshadow]
    exact ⟨_, exec_boundary_of_pending hp, rfl⟩
  · simp only [exec_apply, andThen_next]
    exact ⟨_, exec_boundary_of_pending rfl, rfl⟩

end Sys2Proof.Machine

/-! The statements of 43_core_step.md: what each input event does in one step (R161, R162, R164), that clock steps run
their events (R165, R167), and one frame end to end (R169). -/

namespace Sys2Proof.Machine

open Laws

/-! ### One event -/

/-- Settles O45: the free payload and its draw count are the values that the spec leaves open. -/
theorem resetSetsEveryField : Obligations.ResetSetsEveryField := fun s =>
  ⟨freePayload s.freeCount, s.freeCount + 4, exec_event .reset s⟩

/-- R77: with the three control bits 0 nothing arrives, whatever the byte. -/
theorem events_nop (d : Byte) : events (eventWord false false false d) = [.nop] := by
  simp [events, wordRst_eventWord, wordTick_eventWord, wordValid_eventWord]

/-- Settles O44: the run of a word without input is the run of a `NOP`. -/
theorem nopChangesNothing : Obligations.NopChangesNothing := by
  refine ⟨exec_event .nop, fun s d rest hin => ?_⟩
  rw [step_of_input hin, events_nop]
  rfl

/-- Settles O7: one byte class for each branch of the table. -/
theorem rxByteFollowsTransitionTable : Obligations.RxByteFollowsTransitionTable := by
  intro s b
  rw [exec_rxByte]
  rcases receive_cases b s with
    ⟨hf, hb, hr⟩ | ⟨hf, hb, hr⟩ | ⟨n, hf, hr⟩ | ⟨hf, hb, hr⟩ | ⟨hf, hb, hr⟩
  · rw [hf, hr, if_pos hb]
    rfl
  · simp [hf, hb, hr, emitting]
  · rw [hf, hr]
    match n with
    | 0 | 1 | 2 | 3 => rfl
  · rw [hf, hr, applyTuple_eq, if_pos hb]
    rfl
  · rw [hf, hr, if_neg hb]
    rfl

/-! ### Clock steps -/

/-- Settles O56: no event touches the two ports, so the run leaves them as `s` had them. -/
theorem clockStepsRunTheEvents : Obligations.ClockStepsRunTheEvents := by
  intro ws rest s hin
  obtain ⟨⟨o, hrun⟩, hobs⟩ := runSteps_of_input hin
  refine ⟨_, hrun, ?_, rfl, hobs⟩
  exact congrArg₂ (runEvents (ws.flatMap events) s).1.withPorts
    (runEvents_input _ s).symm (runEvents_out _ s).symm

/-! ### Boundaries among the bytes of a frame -/

theorem transfer_live_of_pending {s : State} (h : s.syncPending = true) :
    (transfer s).live = s.shadow := by
  rw [transfer_live, if_pos h]

/-- What the boundaries of a trace come to while nothing is emitted: the first transfers what was pending, and the
others find no trigger (R147). -/
def afterBoundaries (es : List Event) (s : State) : State :=
  if .boundary ∈ es then transfer s else s

theorem afterBoundaries_of_mem {es : List Event} (h : .boundary ∈ es) (s : State) :
    afterBoundaries es s = transfer s := if_pos h

theorem afterBoundaries_of_notMem {es : List Event} (h : .boundary ∉ es) (s : State) :
    afterBoundaries es s = s := if_neg h

theorem afterBoundaries_transfer (es : List Event) (s : State) :
    afterBoundaries es (transfer s) = transfer s := by
  rw [afterBoundaries, transfer_transfer, ite_self]

theorem afterBoundaries_cons {e : Event} (he : e ≠ .boundary) (es : List Event) (s : State) :
    afterBoundaries (e :: es) s = afterBoundaries es s := by
  simp [afterBoundaries, he.symm]

/-- R142: a boundary touches `sync_pending` and `live` alone, and `live` only by a pending transfer. -/
theorem afterBoundaries_frame (es : List Event) (s : State) :
    (afterBoundaries es s).cfg = s.cfg ∧ (afterBoundaries es s).fstate = s.fstate ∧
      (afterBoundaries es s).cmd = s.cmd ∧ (afterBoundaries es s).shadow = s.shadow := by
  by_cases h : .boundary ∈ es
  · simp [afterBoundaries_of_mem h]
  · simp [afterBoundaries_of_notMem h]

theorem afterBoundaries_live (es : List Event) (s : State) :
    (afterBoundaries es s).live = s.live ∨
      s.syncPending = true ∧ (afterBoundaries es s).live = s.shadow := by
  by_cases hmem : .boundary ∈ es
  · rw [afterBoundaries_of_mem hmem]
    by_cases hpending : s.syncPending = true
    · exact .inr ⟨hpending, transfer_live_of_pending hpending⟩
    · exact .inl (by rw [transfer_live, if_neg hpending])
  · exact .inl (by rw [afterBoundaries_of_notMem hmem])

/-- R142, R162: a boundary and a byte that is not accepted commute, as they touch different fields. -/
theorem receive_transfer {b : Byte} {s : State} (h : (receive b s).2 = none) :
    receive b (transfer s) = (transfer (receive b s).1, none) := by
  have hcfg := transfer_cfg s
  have hfstate := transfer_fstate s
  rcases receive_cases b s with
    ⟨hf, hb, hr⟩ | ⟨hf, hb, hr⟩ | ⟨n, hf, hr⟩ | ⟨-, -, hr⟩ | ⟨hf, hb, hr⟩
  · rw [receive_header (hfstate.trans hf) (hcfg ▸ hb), hr, transfer_eq, transfer_eq]
  · rw [receive_discard (hfstate.trans hf) (hcfg ▸ hb), hr]
  · rw [receive_collect (hfstate.trans hf), hr, transfer_eq, transfer_eq]
  · simp [hr] at h
  · rw [receive_reject (hfstate.trans hf) (hcfg ▸ hb), hr, transfer_eq, transfer_eq]

theorem receive_afterBoundaries {b : Byte} {s : State} (h : (receive b s).2 = none) (es : List Event) :
    receive b (afterBoundaries es s) = (afterBoundaries es (receive b s).1, none) := by
  by_cases hmem : .boundary ∈ es
  · rw [afterBoundaries_of_mem hmem, afterBoundaries_of_mem hmem, receive_transfer h]
  · rw [afterBoundaries_of_notMem hmem, afterBoundaries_of_notMem hmem, ← h]

/-- R106: what some bytes emit does not depend on a boundary before them. -/
theorem runBytes_transfer_emissions (bytes : List Byte) (s : State) :
    (runBytes bytes (transfer s)).2 = (runBytes bytes s).2 :=
  (decoderIgnoresLaterStages _ (transfer s) s (transfer_cfg s) (transfer_fstate s)
    (transfer_payload s) (transfer_freeCount s)).1

/-- R147, R169: while its bytes emit nothing, a trace without a reset is the run of its bytes after the effect of
its boundaries, wherever these stand in it. -/
theorem runEvents_of_silent {es : List Event} {s : State} (hreset : ∀ e ∈ es, e ≠ .reset)
    (hsilent : (runBytes (bytesOf es) s).2 = []) :
    runEvents es s = runBytes (bytesOf es) (afterBoundaries es s) := by
  induction es generalizing s with
  | nil => rfl
  | cons e es ih =>
    obtain ⟨he, hrest⟩ := List.forall_mem_cons.mp hreset
    cases e with
    | reset => exact absurd rfl he
    | rxByte b =>
      rw [bytesOf, runBytes_cons, List.append_eq_nil_iff, Option.toList_eq_nil_iff] at hsilent
      obtain ⟨hb, hbytes⟩ := hsilent
      rw [runEvents_cons, stepEvent_rxByte, ih hrest hbytes, bytesOf, runBytes_cons,
        afterBoundaries_cons (by simp), receive_afterBoundaries hb, hb]
    | boundary =>
      have hbytes : (runBytes (bytesOf es) (transfer s)).2 = [] :=
        (runBytes_transfer_emissions _ s).trans hsilent
      rw [runEvents_cons, stepEvent_boundary, ih hrest hbytes, afterBoundaries_transfer,
        afterBoundaries_of_mem List.mem_cons_self]
      rfl
    | nop =>
      rw [runEvents_cons, stepEvent_nop, ih hrest hsilent, afterBoundaries_cons (by simp)]
      rfl

/-- A trace of boundaries and steps without input delivers no byte and no reset. -/
theorem quiet_trace {es : List Event} (h : ∀ e ∈ es, Quiet e) :
    (∀ e ∈ es, e ≠ .reset) ∧ bytesOf es = [] := by
  induction es with
  | nil => simp [bytesOf]
  | cons e es ih =>
    obtain ⟨he, hrest⟩ := List.forall_mem_cons.mp h
    obtain ⟨hreset, hbytes⟩ := ih hrest
    rcases he with rfl | rfl <;>
      exact ⟨List.forall_mem_cons.mpr ⟨by simp, hreset⟩, hbytes⟩

theorem runEvents_quiet {es : List Event} (h : ∀ e ∈ es, Quiet e) (s : State) :
    runEvents es s = (afterBoundaries es s, []) := by
  obtain ⟨hreset, hbytes⟩ := quiet_trace h
  rw [runEvents_of_silent hreset (by rw [hbytes, runBytes_nil]), hbytes, runBytes_nil]

/-! ### One frame -/

/-- R109: the first five bytes of a frame, from `Idle`. -/
theorem runBytes_header_tuple {s : State} (t : Angles) (hf : s.fstate = .idle) :
    runBytes [s.cfg.header, t.base, t.shoulder, t.elbow, t.claw] s =
      ({ s with fstate := .awaitFooter, payload := t }, []) := by
  rw [runBytes_cons, receive_header hf rfl, runBytes_tuple t rfl]
  rfl

section
variable {s : State} {t : Angles} {pre : List Event} (hf : s.fstate = .idle)
  (hreset : ∀ e ∈ pre, e ≠ .reset)
  (hbytes : bytesOf pre = [s.cfg.header, t.base, t.shoulder, t.elbow, t.claw])
include hf hreset hbytes

/-- R169: up to the last byte of a frame, whatever boundaries stand between. -/
theorem runEvents_before_footer :
    runEvents pre s =
      ({ afterBoundaries pre s with fstate := .awaitFooter, payload := t }, []) := by
  obtain ⟨hcfg, hfstate, -, -⟩ := afterBoundaries_frame pre s
  have hsilent : (runBytes (bytesOf pre) s).2 = [] := by rw [hbytes, runBytes_header_tuple t hf]
  rw [runEvents_of_silent hreset hsilent, hbytes, ← hcfg,
    runBytes_header_tuple t (hfstate.trans hf)]

/-- R162, R169: the last byte emits the tuple and applies it. -/
theorem runEvents_through_footer :
    runEvents (pre ++ [.rxByte s.cfg.footer]) s =
      (applyTuple t { afterBoundaries pre s with fstate := .idle, payload := t }, [t]) := by
  obtain ⟨hcfg, -, -, -⟩ := afterBoundaries_frame pre s
  have haccept := receive_accept (b := s.cfg.footer)
    (s := { afterBoundaries pre s with fstate := .awaitFooter, payload := t }) rfl
    (congrArg (·.footer) hcfg.symm)
  rw [runEvents_append, runEvents_before_footer hf hreset hbytes, runEvents_cons, stepEvent_rxByte,
    haccept]
  rfl

end

/-- Settles O55: the frame's own boundaries act before it, those after it on what it staged. -/
theorem frameEndToEnd : Obligations.FrameEndToEnd := by
  intro s t pre post hf hreset hbytes hquiet
  obtain ⟨hcfg, -, -, -⟩ := afterBoundaries_frame pre s
  rw [runEvents_append _ post, runEvents_through_footer hf hreset hbytes, runEvents_quiet hquiet,
    runEvents_before_footer hf hreset hbytes]
  have hshadow : map4Of (afterBoundaries pre s).cfg t = map4Of s.cfg t := by rw [hcfg]
  obtain ⟨-, hfstate, hcmd, hkept⟩ := afterBoundaries_frame post
    (applyTuple t { afterBoundaries pre s with fstate := .idle, payload := t })
  refine ⟨rfl, rfl, rfl, rfl, hshadow, rfl, afterBoundaries_live pre s, rfl, rfl, hfstate, hcmd,
    hkept.trans hshadow, fun hmem => ?_, fun hmem => afterBoundaries_of_notMem hmem _⟩
  rw [afterBoundaries_of_mem hmem]
  exact ⟨(transfer_live_of_pending rfl).trans hshadow, rfl⟩

end Sys2Proof.Machine

/-! The statements of 60_exceptions.md: the three error conditions, none of which stops a step (R181 to R188). -/

namespace Sys2Proof.Machine

/-! ### When a condition arises -/

theorem mem_channels (ch : Channel) : ch ∈ [Channel.base, .shoulder, .elbow, .claw] := by
  cases ch <;> decide

/-- R183: an accepted tuple raises nothing but E3, and that on the channels above 180. -/
theorem mem_outOfRange_iff {t : Angles} {e : ErrorCondition} :
    e ∈ outOfRange t ↔ ∃ ch, Config.angleMax < (quadGet t ch).toNat ∧ .angleOutOfRange ch = e := by
  simp only [outOfRange, List.mem_map, List.mem_filter, mem_channels, true_and, decide_eq_true_iff]

section
variable (s : State) (b : Byte)

/-- R185: what a byte of each of the five classes raises. -/
theorem errorsOf_cases :
    (s.fstate = .idle ∧ b = s.cfg.header ∧ errorsOf s b = []) ∨
    (s.fstate = .idle ∧ b ≠ s.cfg.header ∧ errorsOf s b = [.framingDesync]) ∨
    (∃ n, s.fstate = .collecting n ∧ errorsOf s b = []) ∨
    (s.fstate = .awaitFooter ∧ b = s.cfg.footer ∧ errorsOf s b = outOfRange s.payload) ∨
    (s.fstate = .awaitFooter ∧ b ≠ s.cfg.footer ∧ errorsOf s b = [.wrongFooter]) := by
  rcases byteClass_cases s.cfg s.fstate b with
    ⟨hf, hb, -⟩ | ⟨hf, hb, -⟩ | ⟨n, hf, -⟩ | ⟨hf, hb, -⟩ | ⟨hf, hb, -⟩ <;>
    simp [errorsOf, *]

theorem framingDesync_mem_errorsOf_iff :
    .framingDesync ∈ errorsOf s b ↔ s.fstate = .idle ∧ b ≠ s.cfg.header := by
  rcases errorsOf_cases s b with
    ⟨hf, hb, h⟩ | ⟨hf, hb, h⟩ | ⟨n, hf, h⟩ | ⟨hf, hb, h⟩ | ⟨hf, hb, h⟩ <;>
    rw [h] <;> simp [*, mem_outOfRange_iff]

theorem wrongFooter_mem_errorsOf_iff :
    .wrongFooter ∈ errorsOf s b ↔ s.fstate = .awaitFooter ∧ b ≠ s.cfg.footer := by
  rcases errorsOf_cases s b with
    ⟨hf, hb, h⟩ | ⟨hf, hb, h⟩ | ⟨n, hf, h⟩ | ⟨hf, hb, h⟩ | ⟨hf, hb, h⟩ <;>
    rw [h] <;> simp [*, mem_outOfRange_iff]

theorem angleOutOfRange_mem_errorsOf_iff (ch : Channel) :
    .angleOutOfRange ch ∈ errorsOf s b ↔
      s.fstate = .awaitFooter ∧ b = s.cfg.footer ∧ Config.angleMax < (quadGet s.payload ch).toNat := by
  rcases errorsOf_cases s b with
    ⟨hf, hb, h⟩ | ⟨hf, hb, h⟩ | ⟨n, hf, h⟩ | ⟨hf, hb, h⟩ | ⟨hf, hb, h⟩ <;>
    rw [h] <;> simp [*, mem_outOfRange_iff]

end

/-! ### What each condition does -/

/-- R183: an angle above 180 is staged as 180. -/
theorem quadGet_map4Of_of_gt (c : Config) {t : Angles} {ch : Channel}
    (h : Config.angleMax < (quadGet t ch).toNat) :
    quadGet (map4Of c t) ch = regvalOf c ch 180 := by
  rw [quadGet_map4Of]
  exact regvalOf_eq_of_ge c ch h.le (by decide)

/-- Settles O52: each condition names the class of the byte that raises it; E1 arises in `Idle` alone, and E2 and E3
in `AwaitFooter` on opposite answers of the footer test. -/
theorem errorConditionsAreSilent : Obligations.ErrorConditionsAreSilent := by
  intro s b
  refine ⟨_, exec_rxByte b s, fun hdesync => ?_, fun hfooter => ?_, fun ch hangle => ?_, ?_⟩
  · obtain ⟨hf, hb⟩ := (framingDesync_mem_errorsOf_iff s b).mp hdesync
    rw [receive_discard hf hb]
    rfl
  · obtain ⟨hf, hb⟩ := (wrongFooter_mem_errorsOf_iff s b).mp hfooter
    rw [receive_reject hf hb]
    rfl
  · obtain ⟨hf, hb, habove⟩ := (angleOutOfRange_mem_errorsOf_iff s b ch).mp hangle
    rw [receive_accept hf hb]
    exact ⟨habove, rfl, quadGet_map4Of_of_gt s.cfg habove, rfl,
      by simp [framingDesync_mem_errorsOf_iff, hf], by simp [wrongFooter_mem_errorsOf_iff, hb]⟩
  · rw [framingDesync_mem_errorsOf_iff, wrongFooter_mem_errorsOf_iff]
    rintro ⟨⟨hidle, -⟩, hawait, -⟩
    simp [hidle] at hawait

end Sys2Proof.Machine

/-! The statements of 70_reset_and_hazards.md: how a decoder left inside a frame comes back to `Idle` (R206), and what
the frame of the default does after a reset (R201). -/

namespace Sys2Proof.Machine

open Laws

/-! ### Bytes that are neither sentinel -/

/-- R104: without a `FOOTER` among the bytes no frame is accepted. -/
theorem runBytes_emissions_of_no_footer {s : State} {bytes : List Byte}
    (hall : ∀ b ∈ bytes, b ≠ s.cfg.footer) : (runBytes bytes s).2 = [] := by
  induction bytes generalizing s with
  | nil => rfl
  | cons b bs ih =>
    obtain ⟨hb, hbs⟩ := List.forall_mem_cons.mp hall
    obtain ⟨f, p, hr, -⟩ := receive_of_not_accepted (s := s) fun h => hb h.2
    rw [runBytes_cons, hr]
    exact ih hbs

/-- R109, R206: the bytes that the frame in progress still lacks, whatever they are, lead to `Idle`. -/
theorem runBytes_rest_of_frame {s : State} {bytes : List Byte} (hf : s.fstate ≠ .idle)
    (hlen : framePosition s.fstate + bytes.length = 6) : (runBytes bytes s).1.fstate = .idle := by
  rw [← framePosition_eq_zero_iff, framePosition_runBytes hf hlen.le, hlen]

/-- R102, R206: once the frame in progress is complete, bytes that are no `HEADER` keep the decoder in `Idle`. -/
theorem runBytes_idle_of_no_header {s : State} {bytes : List Byte} (hlen : 5 ≤ bytes.length)
    (hall : ∀ b ∈ bytes, b ≠ s.cfg.header) : (runBytes bytes s).1.fstate = .idle := by
  by_cases hf : s.fstate = .idle
  · rw [runBytes_garbage hf hall, hf]
  · have hpos := mt (framePosition_eq_zero_iff s.fstate).mp hf
    have hmax := framePosition_le s.fstate
    have hidle : (runBytes (bytes.take (6 - framePosition s.fstate)) s).1.fstate = .idle :=
      runBytes_rest_of_frame hf (by rw [List.length_take]; omega)
    have hcfg : (runBytes (bytes.take (6 - framePosition s.fstate)) s).1.cfg = s.cfg :=
      runEvents_cfg _ s
    rw [← List.take_append_drop (6 - framePosition s.fstate) bytes, runBytes_append,
      runBytes_garbage hidle fun b hb => hcfg ▸ hall b (List.mem_of_mem_drop hb)]
    exact hidle

/-- Settles O21: five bytes complete any frame in progress; no `HEADER` opens another, and no `FOOTER` accepts. -/
theorem fiveNeutralBytesReachIdle : Obligations.FiveNeutralBytesReachIdle := fun _ _ hlen hall =>
  ⟨runBytes_idle_of_no_header hlen fun b hb => (hall b hb).1,
    runBytes_emissions_of_no_footer fun b hb => (hall b hb).2⟩

/-! ### The frame of the Commanded Position -/

/-- R104, R109: a whole frame from `Idle` applies its tuple and ends in `Idle`. -/
theorem runBytes_frame {s : State} (t : Angles) (hf : s.fstate = .idle) :
    runBytes (frameBytes s.cfg t s.cfg.footer) s = (applyTuple t { s with payload := t }, [t]) := by
  have haccept := receive_accept (s := { s with fstate := .awaitFooter, payload := t }) rfl rfl
  rw [runBytes_frameBytes t _ hf, runBytes_cons, haccept, ← hf]
  rfl

/-- R143, I3: applying the Commanded Position again only sets the trigger. -/
theorem applyTuple_cmd_self {s : State} (hs : StateInv s) :
    applyTuple s.cmd s = { s with syncPending := true } := by
  rw [applyTuple_eq, ← hs.shadow_eq]

/-- R142, I5: where nothing was pending, a trigger makes the boundary transfer what `live` shows already. -/
theorem transfer_of_settled {s : State} (hs : StateInv s) (hp : s.syncPending = false) :
    transfer { s with syncPending := true } = s := by
  have hlive := hs.settled hp
  cases s
  simp only at hp hlive
  subst hp hlive
  exact transfer_eq _

/-- The frame of the Commanded Position and a boundary, where nothing was pending, leave all but the payload. -/
theorem runEvents_frame_of_cmd {s : State} (hs : StateInv s) (hf : s.fstate = .idle)
    (hp : s.syncPending = false) :
    runEvents ((frameBytes s.cfg s.cmd s.cfg.footer).map Event.rxByte ++ [.boundary]) s =
      ({ s with payload := s.cmd }, [s.cmd]) := by
  have hs' : StateInv { s with payload := s.cmd } := hs.of_eq rfl rfl rfl rfl rfl
  have hframe : runEvents ((frameBytes s.cfg s.cmd s.cfg.footer).map Event.rxByte) s =
      ({ s with payload := s.cmd, syncPending := true }, [s.cmd]) :=
    (runBytes_frame s.cmd hf).trans (congrArg (·, [s.cmd]) (applyTuple_cmd_self hs'))
  rw [runEvents_append, hframe, runEvents_cons, stepEvent_boundary]
  exact congrArg (·, [s.cmd]) (transfer_of_settled hs' hp)

/-- Settles O48: the default is what a reset leaves in `cmd`, mapped into both register files, with no trigger
pending. -/
theorem defaultFrameReproducesBoot : Obligations.DefaultFrameReproducesBoot := by
  refine fun s => ⟨rfl, ?_⟩
  have hframe : runEvents ((frameBytes s.cfg ⟨90, 90, 90, 0⟩ s.cfg.footer).map Event.rxByte ++ [.boundary])
      (resetCore s) = ({ resetCore s with payload := ⟨90, 90, 90, 0⟩ }, [⟨90, 90, 90, 0⟩]) :=
    runEvents_frame_of_cmd (stateInv_resetCore s) rfl rfl
  rw [List.append_assoc, List.singleton_append, runEvents_cons, stepEvent_reset, hframe]
  rfl

end Sys2Proof.Machine
